-- ==== Sys2Proof/Word.lean ====
section
/-! DEFINITION. Word: the widths of the block's registers and of its transfers. -/

namespace Sys2Proof

/-- A 32-bit two's-complement register: every countdown, the scanline, the `cycles` operand
(00_scope.md R10; spec decision D5, log 14). Additions and subtractions wrap modulo 2^32 (R14). -/
abbrev Word := BitVec 32

/-- A 16-bit transfer on the register I/O surface (20_memory.md R55). -/
abbrev Half := BitVec 16

/-- One byte of a video memory region (20_memory.md R50). -/
abbrev Byte := BitVec 8

/-- A 32-bit address of the register I/O surface (00_scope.md R10; spec decision D20). -/
abbrev Addr := BitVec 32

/-- The identity of a renderer, 0 being the dummy (10_state.md R29; spec decision D24). -/
abbrev RendererHandle := BitVec 32

/-- One 64-bit command word (30_encoding.md R70). -/
abbrev CommandWord := BitVec 64

end Sys2Proof
end

