-- ==== Sys2Proof/Config.lean ====
section
/-! DEFINITION. Config: the fixed constants, the open parameters and the free values. -/

namespace Sys2Proof

/-! ### Fixed constants (00_scope.md R8, R9; spec decision D4, log 15) -/

/-- `HDRAW_LENGTH` (R8). -/
def Config.hdrawLength : Word := 1006#32

/-- `HBLANK_LENGTH` (R8). -/
def Config.hblankLength : Word := 226#32

/-- `VISIBLE_LINES` (R8), also `VBLANK_FIRST_LINE` (R9). -/
def Config.visibleLines : Word := 160#32

/-- `TOTAL_LINES` (R8). -/
def Config.totalLines : Word := 228#32

/-- `HORIZONTAL_LENGTH = HDRAW_LENGTH + HBLANK_LENGTH` (R9). -/
def Config.horizontalLength : Word := Config.hdrawLength + Config.hblankLength

/-- `VBLANK_LAST_FLAG_LINE = TOTAL_LINES - 2` (R9). -/
def Config.vblankLastFlagLine : Word := Config.totalLines - 2#32

/-- `FRAME_LENGTH = TOTAL_LINES * HORIZONTAL_LENGTH` (R9). -/
def Config.frameLength : Word := Config.totalLines * Config.horizontalLength

/-- The handle of the no-op renderer (10_state.md R29; spec decision D24). -/
def Config.dummy : RendererHandle := 0#32

/-- What a byte of a region reads as after allocation: the block zero-fills (20_memory.md R51; log 9). -/
def Config.regionFill : Byte := 0#8

/-! ### Free values (10_state.md R41)

They have no body: nothing can evaluate them, so a claim holds whatever they are. -/

/-- FREE VALUE (log 5). The pacing collaborator's answer to the `n`-th `PACE_QUERY` whose answer no
input fixes (10_state.md R41; 93 I4). -/
opaque Config.freePacingAnswer : Nat → Bool

/-- FREE VALUE (log 6). A real renderer's answer to the `n`-th `R_WRITE_REG` whose answer no input
fixes (42_renderer.md R152; 93 I5). -/
opaque Config.freeRendererAnswer : Nat → Half

/-! ### Open parameters (00_scope.md R11, 20_memory.md R58) -/

/-- `REGION_BYTE_ORDER` (20_memory.md R58; spec decision D23). -/
inductive ByteOrder where
  | little
  | big
  deriving DecidableEq, Repr

/-- The addresses `first ≤ a ≤ last`, unsigned. -/
structure AddrRange where
  first : Addr
  last  : Addr
  deriving DecidableEq, Repr

/-- The open parameters of the spec, which "a model takes as an argument" (00_scope.md R11). They are
plain data carried by `State`, so that every statement over all states holds for all parameters; no
step writes them. -/
structure Params where
  /-- `STATUS_REG_ADDR`. -/
  statusRegAddr   : Addr
  /-- `IsVideoReg`, as the ranges whose union it is (log 8). -/
  videoRegs       : List AddrRange
  /-- `VRAM_SIZE`, in bytes. -/
  vramSize        : Nat
  /-- `PALETTE_SIZE`, in bytes. -/
  paletteSize     : Nat
  /-- `OAM_SIZE`, in bytes. -/
  oamSize         : Nat
  /-- `REGION_BYTE_ORDER`. -/
  regionByteOrder : ByteOrder
  deriving DecidableEq, Repr

/-- The defaults the spec uses in its vectors (00_scope.md R11, 20_memory.md R58). PRESUMED, unsafe
(log 7): the spec marks them as general knowledge. -/
def Params.default : Params :=
  { statusRegAddr   := 0x04000004#32
    videoRegs       := [⟨0x04000000#32, 0x04000056#32⟩]
    vramSize        := 0x18000
    paletteSize     := 0x400
    oamSize         := 0x400
    regionByteOrder := .little }

end Sys2Proof
end

