-- ==== Sys2Proof/Machine/State.lean ====
section
/-! DEFINITION. State: everything the spec gives the block, and the host's side of it, as plain data. -/

namespace Sys2Proof.Machine

/-! ### Output events, results and requests -/

/-- The kinds of interrupt request (60_exceptions.md R181). -/
inductive IrqKind where
  | vblank
  | hblank
  | vcounter
  deriving DecidableEq, Repr

/-- The closed alphabet of output events (10_state.md R40). -/
inductive OutputEvent where
  /-- `IRQ(kind)`, to the interrupt collaborator. -/
  | irq (kind : IrqKind)
  /-- `DMA_VBLANK`, to the DMA collaborator. -/
  | dmaVblank
  /-- `DMA_HBLANK`, to the DMA collaborator. -/
  | dmaHblank
  /-- `PACE_QUERY`, to the pacing collaborator, which answers. -/
  | paceQuery
  /-- `PACE_FRAME_POSTED`, to the pacing collaborator. -/
  | paceFramePosted
  /-- `R_INIT(h)`. -/
  | rInit (h : RendererHandle)
  /-- `R_DEINIT(h)`. -/
  | rDeinit (h : RendererHandle)
  /-- `R_BIND(h)`: renderer `h` receives its views of the three regions (20_memory.md R52). -/
  | rBind (h : RendererHandle)
  /-- `R_DRAW_SCANLINE(h, y)`. -/
  | rDrawScanline (h : RendererHandle) (y : Word)
  /-- `R_FINISH_FRAME(h)`. -/
  | rFinishFrame (h : RendererHandle)
  /-- `R_WRITE_REG(h, addr, value)`, which a real renderer answers. -/
  | rWriteReg (h : RendererHandle) (addr : Addr) (value : Half)
  deriving DecidableEq, Repr

/-- The result of a request (30_encoding.md R70, column "result"; 20_memory.md R54 for a byte read). -/
inductive Result where
  | noResult
  /-- ADVANCE: the 32-bit signed budget. -/
  | budget (cycles : Word)
  /-- READ_STATUS: the 16-bit status value. -/
  | statusValue (v : Half)
  /-- WRITE_VIDEO_REG: the value that should actually be stored. -/
  | storedValue (v : Half)
  /-- A host read of a region: the byte. -/
  | memoryByte (b : Byte)
  deriving DecidableEq, Repr

/-- The three video memory regions (20_memory.md R50). -/
inductive Region where
  | vram
  | palette
  | oam
  deriving DecidableEq, Repr

/-- What the host may ask of the block, one at a time (20_memory.md R54, R55, R56, R62). -/
inductive HostRequest where
  /-- A 64-bit command word (30_encoding.md R70). -/
  | command (w : CommandWord)
  /-- `BusWrite16(a, v)` (20_memory.md R55). -/
  | busWrite16 (a : Addr) (v : Half)
  /-- `BusRead16(a)` (20_memory.md R55). -/
  | busRead16 (a : Addr)
  /-- An 8-bit register write, outside the source (20_memory.md R56). -/
  | busWrite8 (a : Addr) (v : Byte)
  /-- A 32-bit register write, outside the source (20_memory.md R56). -/
  | busWrite32 (a : Addr) (v : Word)
  /-- An 8-bit register read, outside the source (20_memory.md R56). -/
  | busRead8 (a : Addr)
  /-- A 32-bit register read, outside the source (20_memory.md R56). -/
  | busRead32 (a : Addr)
  /-- `MemRead(r, off, 1)` (20_memory.md R54). -/
  | memRead (r : Region) (off : Nat)
  /-- `MemWrite(r, off, 1, b)` (20_memory.md R54). -/
  | memWrite (r : Region) (off : Nat) (b : Byte)
  deriving DecidableEq, Repr

/-! ### The state -/

/-- A video memory region: bytes by offset, offsets strictly rising, no entry equal to the fill byte,
which every unlisted offset reads as (20_memory.md R51; log 9). -/
abbrev Memory := List Host.Cell

/-- The canonical form, which makes equal memories equal data. -/
abbrev Memory.wf (m : Memory) : Prop :=
  m.Pairwise (fun c d => c.1 < d.1) ∧ ∀ c ∈ m, c.2 ≠ Config.regionFill

/-- The datapath registers and the countdown file (10_state.md R20 to R26), the source's own names. -/
structure Video where
  /-- Current scanline, -1 before the first line (R20). -/
  scanline                   : Word
  /-- The Hblank phase (R21). -/
  inHblank                   : Bool
  /-- The Vblank flag, lines 160..226 (R22). -/
  inVblank                   : Bool
  /-- The comparison made at the last End-of-Hblank (R23). -/
  vcounterMatch              : Bool
  /-- Status bit 3 (R24). -/
  vblankIRQEnabled           : Bool
  /-- Status bit 4 (R24). -/
  hblankIRQEnabled           : Bool
  /-- Status bit 5 (R24). -/
  vcounterIRQEnabled         : Bool
  /-- Status bits 15..8 (R25). -/
  vcountTarget               : BitVec 8
  /-- E: cycles from now until the next event (R26). -/
  cyclesToNextEvent          : Word
  /-- L: start of the current or most recent Hblank, from the base instant (R26). -/
  cyclesSinceLastHblankStart : Word
  /-- H: start of the next Hblank, from the base instant (R26). -/
  cyclesToNextHblankStart    : Word
  /-- HI: next Hblank interrupt, from the base instant (R26). No rule reads it. -/
  cyclesToNextHblankIRQ      : Word
  /-- VI: next Vblank interrupt, from the base instant (R26). No rule reads it. -/
  cyclesToNextVblankIRQ      : Word
  /-- CI: next vcounter interrupt, from the base instant (R26). -/
  cyclesToNextVcounterIRQ    : Word
  /-- D: the value E took when the last event ended (R26). -/
  lastEventDiff              : Word
  deriving DecidableEq, Repr

/-- The machine: the spec's state, its open parameters, and the host's side. -/
structure State where
  /-- The datapath registers and the countdown file. -/
  video           : Video
  /-- The one attached renderer (10_state.md R29). -/
  renderer        : RendererHandle
  /-- The lifecycle flag (10_state.md R30). -/
  live            : Bool
  /-- Video RAM (20_memory.md R50). -/
  vram            : Memory
  /-- Palette RAM (20_memory.md R50). -/
  palette         : Memory
  /-- Object-attribute memory (20_memory.md R50). -/
  oam             : Memory
  /-- The open parameters (00_scope.md R11); no step writes them. -/
  params          : Params
  /-- Output events of the last request, in emission order (10_state.md R40; log 4). -/
  outputs         : List OutputEvent
  /-- Result of the last request (00_scope.md R6; log 4). -/
  result          : Result
  /-- MODEL'S OWN. Host requests still to be executed, the next one first (20_memory.md R62; log 1). -/
  requests        : List HostRequest
  /-- MODEL'S OWN. Pacing answers already fixed as inputs, the next one first (10_state.md R41; log 5). -/
  pacingAnswers   : List Bool
  /-- MODEL'S OWN. How many pacing answers were free values (log 5). -/
  pacingDraws     : Nat
  /-- MODEL'S OWN. Renderer answers already fixed as inputs, the next one first (log 6). -/
  rendererAnswers : List Half
  /-- MODEL'S OWN. How many renderer answers were free values (log 6). -/
  rendererDraws   : Nat
  deriving DecidableEq, Repr

/-! ### Reset -/

/-- The video fields just after POWER_ON (10_state.md R34; spec decisions D7, D8, log 11). -/
def Video.reset : Video :=
  { scanline                   := -1#32
    inHblank                   := false
    inVblank                   := false
    vcounterMatch              := false
    vblankIRQEnabled           := false
    hblankIRQEnabled           := false
    vcounterIRQEnabled         := false
    vcountTarget               := 0#8
    cyclesToNextEvent          := Config.hdrawLength
    cyclesSinceLastHblankStart := 0#32
    cyclesToNextHblankStart    := Config.hdrawLength
    cyclesToNextHblankIRQ      := 0#32
    cyclesToNextVblankIRQ      := 0#32
    cyclesToNextVcounterIRQ    := 0#32
    lastEventDiff              := Config.hdrawLength }

/-- The machine right after reset, which is POWER_ON (70_reset_and_hazards.md R210, 10_state.md R34):
live, the dummy renderer attached, every region byte zero, and no host request given yet. -/
def State.reset : State :=
  { video           := Video.reset
    renderer        := Config.dummy
    live            := true
    vram            := []
    palette         := []
    oam             := []
    params          := Params.default
    outputs         := []
    result          := .noResult
    requests        := []
    pacingAnswers   := []
    pacingDraws     := 0
    rendererAnswers := []
    rendererDraws   := 0 }

/-- A block that was never powered on: not live, so none of its video fields can be observed
(10_state.md R30, 43_lifecycle.md R172). DESIGN CHOICE (log 12): they hold zeros. -/
def State.unpowered : State :=
  { State.reset with
    live  := false
    video :=
      { scanline := 0#32, inHblank := false, inVblank := false, vcounterMatch := false,
        vblankIRQEnabled := false, hblankIRQEnabled := false, vcounterIRQEnabled := false,
        vcountTarget := 0#8, cyclesToNextEvent := 0#32, cyclesSinceLastHblankStart := 0#32,
        cyclesToNextHblankStart := 0#32, cyclesToNextHblankIRQ := 0#32,
        cyclesToNextVblankIRQ := 0#32, cyclesToNextVcounterIRQ := 0#32, lastEventDiff := 0#32 } }

/-! ### Ways a step can stop -/

/-- The block has no failure of its own: "This unit has no recoverable-error paths" (60_exceptions.md
R180). Nothing raises a fault, so the type is empty (log 29). Safe: nothing stops by a fault. -/
inductive Fault where
  deriving DecidableEq, Repr

/-- Why the model has no step for a request (00_scope.md R13, 60_exceptions.md R180; log 3). Each is
safe: the model stops where the spec says the request is outside the admitted set. -/
inductive Refusal where
  /-- An instruction without a meaning. Raised by no arm: every row has its meaning. Safe. -/
  | notModelled (mnemonic : String)
  /-- Code 1. Raised by every transaction but POWER_ON, and by a region access, on a block that is not
  live. Safe. -/
  | notLive
  /-- Code 2. Raised by POWER_ON on a live block. Safe. -/
  | alreadyLive
  /-- Code 3. Raised by the decoding of a command word with op 111. Safe. -/
  | reservedOp
  /-- Code 4. Raised by the decoding of a command word with a must-be-zero bit set. Safe. -/
  | mbzNonZero
  /-- Code 5. Raised by WRITE_VIDEO_REG to the status address. Safe. -/
  | statusViaPassthrough
  /-- Code 6. Raised by a bus write to an address that is no register of this block. Safe. -/
  | notThisBlock
  /-- Code 7. Raised by a bus read of any address but the status address. Safe. -/
  | readNotInSource
  /-- Code 8. Raised by an 8-bit or 32-bit register access. Safe. -/
  | widthNotInSource
  /-- Code 9. Raised by a region access outside the region. Safe. -/
  | badOffset
  deriving DecidableEq, Repr

end Sys2Proof.Machine
end

