-- ==== Sys2Proof/Machine/Ops.lean ====
section
/-! DEFINITION. Ops: the operations the transactions share: regions, output events, inputs, the
lifecycle guard and the association protocol.

The block takes no trap: it saves nothing, changes no mode and transfers no control when it raises an
interrupt (60_exceptions.md R187, R188). What stands in the place of taking an exception is
`State.raiseInterrupt`: one output event, nothing else. -/

namespace Sys2Proof.Machine

/-- What an instruction answers. -/
abbrev Exec := Host.Outcome State Fault Refusal

/-! ### Region memory (20_memory.md R50, R51, R54) -/

/-- The byte at an offset; an unlisted offset reads as the fill byte (R51). -/
def Memory.read : Memory → Nat → Byte
  | [], _          => Config.regionFill
  | (k, c) :: m, a => if a = k then c else Memory.read m a

/-- Puts a byte before the entries of `m`, unless it is the fill byte, which is never listed. -/
def Memory.put (m : Memory) (a : Nat) (b : Byte) : Memory :=
  if b = Config.regionFill then m else (a, b) :: m

/-- Writes the byte at an offset, keeping the canonical form. -/
def Memory.write : Memory → Nat → Byte → Memory
  | [], a, b          => Memory.put [] a b
  | (k, c) :: m, a, b =>
    if a < k then Memory.put ((k, c) :: m) a b
    else if a = k then Memory.put m a b
    else (k, c) :: Memory.write m a b

/-- `size(r)` (R50). -/
def regionSize (p : Params) : Region → Nat
  | .vram    => p.vramSize
  | .palette => p.paletteSize
  | .oam     => p.oamSize

/-- The contents of a region. -/
def State.region (s : State) : Region → Memory
  | .vram    => s.vram
  | .palette => s.palette
  | .oam     => s.oam

/-- The state with a region's contents replaced. -/
def State.setRegion (s : State) (r : Region) (m : Memory) : State :=
  match r with
  | .vram    => { s with vram := m }
  | .palette => { s with palette := m }
  | .oam     => { s with oam := m }

/-- The byte of region `r` at offset `off`. -/
def State.regionByte (s : State) (r : Region) (off : Nat) : Byte := (s.region r).read off

/-- Every byte of every region zero: POWER_ON's allocation and what TEARDOWN's release leaves
(43_lifecycle.md R170, R172; log 10). -/
def State.clearRegions (s : State) : State := { s with vram := [], palette := [], oam := [] }

/-! ### One transaction: its output list, its result, its guard -/

/-- A transaction begins with an empty output list and no result (00_scope.md R6, 10_state.md R40). -/
def State.begin (s : State) : State := { s with outputs := [], result := .noResult }

/-- `emit Ev`: appends the event to the output list (00_scope.md R13). -/
def State.emit (s : State) (ev : OutputEvent) : State := { s with outputs := s.outputs ++ [ev] }

/-- `if c: emit Ev`. -/
def State.emitIf (s : State) (c : Bool) (ev : OutputEvent) : State := if c then s.emit ev else s

/-- `return v` (00_scope.md R13). -/
def State.answer (s : State) (r : Result) : State := { s with result := r }

/-- Raises an interrupt when its enable is set: a one-shot request to the interrupt collaborator, with no
pending bit kept and no other effect (60_exceptions.md R181, R187). -/
def State.raiseInterrupt (s : State) (enabled : Bool) (kind : IrqKind) : State :=
  s.emitIf enabled (.irq kind)

/-- `if not st.live: refuse(NotLive)`, then the transaction (10_state.md R30). -/
def whenLive (s : State) (body : State → Exec) : Exec :=
  if s.live then body s.begin else .refused .notLive

/-! ### Inputs (10_state.md R41) -/

/-- The answer the next `PACE_QUERY` gets: the next input, else a free value (log 5). -/
def State.pacingAnswer (s : State) : Bool :=
  match s.pacingAnswers with
  | answer :: _ => answer
  | []          => Config.freePacingAnswer s.pacingDraws

/-- Uses up the answer of one `PACE_QUERY`. -/
def State.takePacingAnswer (s : State) : State :=
  match s.pacingAnswers with
  | _ :: rest => { s with pacingAnswers := rest }
  | []        => { s with pacingDraws := s.pacingDraws + 1 }

/-- `if ask isFrameActive(): emit Ev` (00_scope.md R13): the query event, then `Ev` under a true answer.
Every query is a separate draw (10_state.md R41; spec decision D14, log 21). -/
def State.emitIfFrameActive (s : State) (ev : OutputEvent) : State :=
  ((s.emit .paceQuery).takePacingAnswer).emitIf s.pacingAnswer ev

/-- The answer of renderer `h` to `R_WRITE_REG(h, a, v)`: the dummy answers its input value
(42_renderer.md R151); a real renderer's answer is the next input, else a free value (R152, log 6). -/
def State.registerAnswer (s : State) (h : RendererHandle) (v : Half) : Half :=
  if h = Config.dummy then v
  else
    match s.rendererAnswers with
    | answer :: _ => answer
    | []          => Config.freeRendererAnswer s.rendererDraws

/-- Uses up the answer of renderer `h`; the dummy's is no draw (10_state.md R41). -/
def State.takeRegisterAnswer (s : State) (h : RendererHandle) : State :=
  if h = Config.dummy then s
  else
    match s.rendererAnswers with
    | _ :: rest => { s with rendererAnswers := rest }
    | []        => { s with rendererDraws := s.rendererDraws + 1 }

/-! ### The association protocol (42_renderer.md R153), shared by ATTACH_RENDERER and TEARDOWN -/

/-- Deinitialises the attached renderer, rewires the new one's views, swaps the pointer, initialises the
new one (R153). -/
def State.associate (s : State) (h : RendererHandle) : State :=
  let s := s.emit (.rDeinit s.renderer)
  let s := s.emit (.rBind h)
  let s := { s with renderer := h }
  s.emit (.rInit h)

end Sys2Proof.Machine
end

