-- ==== Sys2Proof/Machine/Lifecycle.lean ====
section
/-! DEFINITION. Lifecycle: POWER_ON and TEARDOWN (43_lifecycle.md). -/

namespace Sys2Proof.Machine

/-- The block just after POWER_ON (43_lifecycle.md R170, 10_state.md R34); the dummy renderer becomes
current without an `R_INIT` (42_renderer.md R155; spec decision D25, log 25). -/
def powerUp (s : State) : State :=
  let s := s.clearRegions
  { s with video := Video.reset, renderer := Config.dummy, live := true }

/-- POWER_ON (43_lifecycle.md R170): there is no partial reset, so a live block refuses it. -/
def execPowerOn (s : State) : Exec :=
  if s.live then .refused .alreadyLive else .next (powerUp s.begin)

/-- The block after TEARDOWN: the association with the dummy renderer, the regions released, not live
(43_lifecycle.md R172; spec decision D37, log 25). -/
def tearDown (s : State) : State :=
  let s := (s.associate Config.dummy).clearRegions
  { s with live := false }

/-- TEARDOWN (43_lifecycle.md R172). -/
def execTeardown (s : State) : Exec :=
  whenLive s fun s => .next (tearDown s)

end Sys2Proof.Machine
end

