-- ==== Sys2Proof/Machine/Renderer.lean ====
section
/-! DEFINITION. Renderer: WRITE_VIDEO_REG and ATTACH_RENDERER (42_renderer.md). -/

namespace Sys2Proof.Machine

/-- `ask writeRegister(st.renderer, a, v)` and `return r` (42_renderer.md R150, R152). The block stores
nothing: the value is the host's to store. -/
def passThrough (addr : Addr) (value : Half) (s : State) : State :=
  let answer := s.registerAnswer s.renderer value
  let s := s.emit (.rWriteReg s.renderer addr value)
  (s.takeRegisterAnswer s.renderer).answer (.storedValue answer)

/-- WRITE_VIDEO_REG (42_renderer.md R150): the status register goes through WRITE_STATUS only (spec
decision D19, log 23); no `IsVideoReg` check is made here. -/
def execWriteVideoReg (addr : Addr) (value : Half) (s : State) : Exec :=
  whenLive s fun s =>
    if addr = s.params.statusRegAddr then .refused .statusViaPassthrough
    else .next (passThrough addr value s)

/-- ATTACH_RENDERER (42_renderer.md R153), the same renderer again admitted (spec decision D33). -/
def execAttachRenderer (handle : RendererHandle) (s : State) : Exec :=
  whenLive s fun s => .next (s.associate handle)

end Sys2Proof.Machine
end

