-- ==== Sys2Proof/Machine/Operands.lean ====
section
/-! DEFINITION. Operands: the fields of a status write and the extensions the rules use. -/

namespace Sys2Proof.Machine

/-- `zext_32` of an 8-bit register (00_scope.md R13, R14). -/
def zext32 (v : BitVec 8) : Word := v.setWidth 32

/-- `zext_16` of a 1-bit flag (00_scope.md R12, R13). -/
def flag16 (b : Bool) : Half := if b then 1#16 else 0#16

/-- `vblankIRQEnabled_new = v[3]` (30_encoding.md R72). -/
def statusVblankEnable (v : Half) : Bool := v.getLsbD 3

/-- `hblankIRQEnabled_new = v[4]` (30_encoding.md R72). -/
def statusHblankEnable (v : Half) : Bool := v.getLsbD 4

/-- `vcounterIRQEnabled_new = v[5]` (30_encoding.md R72). -/
def statusVcounterEnable (v : Half) : Bool := v.getLsbD 5

/-- `vcountTarget_new = v[15:8]` (30_encoding.md R72). -/
def statusTarget (v : Half) : BitVec 8 := v.extractLsb' 8 8

end Sys2Proof.Machine
end

