-- ==== Sys2Proof/Machine/Flags.lean ====
section
/-! DEFINITION. Flags: the flag computations and the status register's read view. -/

namespace Sys2Proof.Machine

/-- `Visible(s) := s < VISIBLE_LINES`, a signed compare, so the pre-roll line -1 is visible
(40_timing.md R94; spec decision D15, log 22). -/
def visible (scanline : Word) : Bool := scanline.slt Config.visibleLines

/-- `scanline == zext_32(vcountTarget)` (40_timing.md R97). -/
def matchesTarget (scanline : Word) (target : BitVec 8) : Bool := scanline == zext32 target

/-- The signed test `0 < E` of 40_timing.md R90 step 2: no event is due yet. -/
def stillPositive (e : Word) : Bool := (0#32).slt e

/-- The 16-bit status value: bit 0 `inVblank`, bit 1 `inHblank`, bit 2 `vcounterMatch`, every other bit
zero (30_encoding.md R73, 41_status.md R134). -/
def statusRead (v : Video) : Half :=
  flag16 v.inVblank ||| (flag16 v.inHblank <<< 1) ||| (flag16 v.vcounterMatch <<< 2)

end Sys2Proof.Machine
end

