-- ==== Sys2Proof/Machine/Status.lean ====
section
/-! DEFINITION. Status: WRITE_STATUS and READ_STATUS (41_status.md). -/

namespace Sys2Proof.Machine

/-- RECOMPUTE_VCOUNTER (41_status.md R131; spec decision D16, log 19): the same formula in both phases, one
signed compare with E, one frame added at most. The mid-Hblank approximation of R132 follows from it. -/
def recomputeVcounter (v : Video) : Video :=
  let ci := v.cyclesToNextHblankStart + Config.hblankLength
    + (zext32 v.vcountTarget - v.scanline) * Config.horizontalLength
  { v with
    cyclesToNextVcounterIRQ :=
      if ci.slt v.cyclesToNextEvent then ci + Config.frameLength else ci }

/-- The scatter of a status write into the enables and the target (41_status.md R130, 30_encoding.md
R72); bits 0-2, 6 and 7 take no part (R77; spec decision D17, log 23). -/
def scatterStatus (value : Half) (v : Video) : Video :=
  { v with
    vblankIRQEnabled   := statusVblankEnable value
    hblankIRQEnabled   := statusHblankEnable value
    vcounterIRQEnabled := statusVcounterEnable value
    vcountTarget       := statusTarget value }

/-- The video fields after a status write (41_status.md R130, R131, R133). -/
def writeStatusVideo (value : Half) (v : Video) : Video :=
  let v := scatterStatus value v
  if v.vcounterIRQEnabled then recomputeVcounter v else v

/-- WRITE_STATUS (41_status.md R130): no output event and no result. -/
def execWriteStatus (value : Half) (s : State) : Exec :=
  whenLive s fun s => .next { s with video := writeStatusVideo value s.video }

/-- READ_STATUS (41_status.md R134): writes no state of the block. -/
def execReadStatus (s : State) : Exec :=
  whenLive s fun s => .next (s.answer (.statusValue (statusRead s.video)))

end Sys2Proof.Machine
end

