-- ==== Sys2Proof/Machine/Timing.lean ====
section
/-! DEFINITION. Timing: ADVANCE and the video timing state machine (40_timing.md). -/

namespace Sys2Proof.Machine

/-! ### The rebase (40_timing.md R91) -/

/-- Moves the five countdowns of the base-instant group to the new base, by the last event distance D
(R91; spec decision D9, log 19). -/
def rebase (v : Video) : Video :=
  { v with
    cyclesSinceLastHblankStart := v.cyclesSinceLastHblankStart - v.lastEventDiff
    cyclesToNextHblankStart    := v.cyclesToNextHblankStart - v.lastEventDiff
    cyclesToNextHblankIRQ      := v.cyclesToNextHblankIRQ - v.lastEventDiff
    cyclesToNextVblankIRQ      := v.cyclesToNextVblankIRQ - v.lastEventDiff
    cyclesToNextVcounterIRQ    := v.cyclesToNextVcounterIRQ - v.lastEventDiff }

/-! ### Start-of-Hblank (40_timing.md R92, R93) -/

/-- START_HBLANK, state updates, in the rule's order (R92; HI by spec decision D10, log 19). -/
def startHblankVideo (v : Video) : Video :=
  let v := { v with inHblank := true }
  let v := { v with cyclesSinceLastHblankStart := v.cyclesToNextHblankStart }
  let v := { v with cyclesToNextEvent := v.cyclesSinceLastHblankStart + Config.hblankLength }
  let v := { v with cyclesToNextHblankStart := v.cyclesToNextEvent + Config.hdrawLength }
  { v with cyclesToNextHblankIRQ := v.cyclesToNextHblankStart }

/-- START_HBLANK: the updates, then the outputs, DMA before the interrupt (R93). -/
def startHblank (s : State) : State :=
  let s := { s with video := startHblankVideo s.video }
  let s := s.emitIf (visible s.video.scanline) .dmaHblank
  s.raiseInterrupt s.video.hblankIRQEnabled .hblank

/-! ### End-of-Hblank (40_timing.md R95 to R98) -/

/-- END_HBLANK, common part (R95). -/
def endHblankVideo (v : Video) : Video :=
  let v := { v with inHblank := false }
  let v := { v with cyclesToNextEvent := v.cyclesToNextHblankStart }
  { v with scanline := v.scanline + 1#32 }

/-- The case `scanline == VISIBLE_LINES`, the first vblank scanline (R96; VI by spec decision D11, log 19;
the place of `PACE_FRAME_POSTED` by D13, log 20). -/
def enterVblank (s : State) : State :=
  let s := { s with video := { s.video with inVblank := true } }
  let s := s.emitIfFrameActive (.rFinishFrame s.renderer)
  let s := { s with video := { s.video with cyclesToNextVblankIRQ := Config.frameLength } }
  let s := s.emit .dmaVblank
  let s := s.raiseInterrupt s.video.vblankIRQEnabled .vblank
  s.emit .paceFramePosted

/-- The case `scanline == TOTAL_LINES - 1`, the last scanline before wraparound (R96). -/
def leaveVblank (s : State) : State := { s with video := { s.video with inVblank := false } }

/-- The case `scanline == TOTAL_LINES`: frame wraparound (R96). -/
def wrapFrame (s : State) : State := { s with video := { s.video with scanline := 0#32 } }

/-- END_HBLANK, scanline cases: at most one runs (R96). -/
def scanlineCases (s : State) : State :=
  if s.video.scanline = Config.visibleLines then enterVblank s
  else if s.video.scanline = Config.totalLines - 1#32 then leaveVblank s
  else if s.video.scanline = Config.totalLines then wrapFrame s
  else s

/-- END_HBLANK, vcounter match on the final scanline (R97; CI by spec decision D12, log 19). -/
def vcounterCheck (s : State) : State :=
  let s := { s with
    video := { s.video with
      vcounterMatch := matchesTarget s.video.scanline s.video.vcountTarget } }
  if s.video.vcounterMatch && s.video.vcounterIRQEnabled then
    let s := s.raiseInterrupt true .vcounter
    { s with
      video := { s.video with
        cyclesToNextVcounterIRQ := s.video.cyclesToNextVcounterIRQ + Config.frameLength } }
  else s

/-- END_HBLANK, draw: the visible test first, so no query on lines 160..227 (R98). -/
def drawLine (s : State) : State :=
  if visible s.video.scanline then
    s.emitIfFrameActive (.rDrawScanline s.renderer s.video.scanline)
  else s

/-- END_HBLANK: its four parts in order (R95 to R98). -/
def endHblank (s : State) : State :=
  drawLine (vcounterCheck (scanlineCases { s with video := endHblankVideo s.video }))

/-! ### The event and ADVANCE (40_timing.md R90, R91, R99) -/

/-- EVENT: the rebase, then the transition of the phase held before it (R91). -/
def event (s : State) : State :=
  let s := { s with video := rebase s.video }
  if s.video.inHblank then endHblank s else startHblank s

/-- Records the event distance: `st.D <- st.E` (R99). -/
def recordDistance (s : State) : State :=
  { s with video := { s.video with lastEventDiff := s.video.cyclesToNextEvent } }

/-- Subtracts the elapsed cycles from E (R90 step 1). -/
def spend (cycles : Word) (s : State) : State :=
  { s with video := { s.video with cyclesToNextEvent := s.video.cyclesToNextEvent - cycles } }

/-- Steps 1 to 4 of ADVANCE: at most one event, whatever `cycles` is (R90, R101). -/
def advanceState (cycles : Word) (s : State) : State :=
  let s := spend cycles s
  if stillPositive s.video.cyclesToNextEvent then s else recordDistance (event s)

/-- ADVANCE (R90): answers the new budget E. -/
def execAdvance (cycles : Word) (s : State) : Exec :=
  whenLive s fun s =>
    let s := advanceState cycles s
    .next (s.answer (.budget s.video.cyclesToNextEvent))

end Sys2Proof.Machine
end

