-- ==== Sys2Proof/Syntax.lean ====
section
/-! DEFINITION. Syntax: the host transactions, one constructor per row of spec/opcode_table.json. -/

namespace Sys2Proof

/-- The host transactions (30_encoding.md R70, R75). -/
inductive Instr where
  /-- ADVANCE: `cycles` elapsed-cycle units have passed (40_timing.md R90). The operand is a 32-bit
  register; its legal range 0..2^31-1 is checked by `Instr.WellFormed` (00_scope.md R10). -/
  | advance (cycles : Word)
  /-- WRITE_STATUS (41_status.md R130). -/
  | writeStatus (value : Half)
  /-- READ_STATUS (41_status.md R134). -/
  | readStatus
  /-- WRITE_VIDEO_REG (42_renderer.md R150). -/
  | writeVideoReg (addr : Addr) (value : Half)
  /-- ATTACH_RENDERER (42_renderer.md R153). -/
  | attachRenderer (handle : RendererHandle)
  /-- POWER_ON (43_lifecycle.md R170). -/
  | powerOn
  /-- TEARDOWN (43_lifecycle.md R172). -/
  | teardown
  deriving DecidableEq, Repr

end Sys2Proof
end

