-- ==== Sys2Proof/Machine/Dispatch.lean ====
section
/-! DEFINITION. Dispatch: one arm per transaction. -/

namespace Sys2Proof.Machine

def exec (i : Instr) (s : State) : Host.Outcome State Fault Refusal :=
  match i with
  | .advance cycles => Sys2Proof.Machine.execAdvance cycles s
  | .writeStatus value => Sys2Proof.Machine.execWriteStatus value s
  | .readStatus => Sys2Proof.Machine.execReadStatus s
  | .writeVideoReg addr value => Sys2Proof.Machine.execWriteVideoReg addr value s
  | .attachRenderer handle => Sys2Proof.Machine.execAttachRenderer handle s
  | .powerOn => Sys2Proof.Machine.execPowerOn s
  | .teardown => Sys2Proof.Machine.execTeardown s

end Sys2Proof.Machine
end

