-- ==== Sys2Proof/WellFormed.lean ====
section
/-! DEFINITION. WellFormed: the operands a command word can carry. -/

namespace Sys2Proof

/-- `cycles` lies in 0..2^31-1 (00_scope.md R10, 30_encoding.md R74; spec decision D6, log 16). Every
other operand fills its field, so every value of it is legal. -/
def Instr.wellFormed : Instr → Bool
  | .advance cycles    => decide (cycles.toNat < 2 ^ 31)
  | .writeStatus _     => true
  | .readStatus        => true
  | .writeVideoReg _ _ => true
  | .attachRenderer _  => true
  | .powerOn           => true
  | .teardown          => true

/-- The instruction is one that a command word can name. -/
abbrev Instr.WellFormed (i : Instr) : Prop := i.wellFormed = true

end Sys2Proof
end

