-- ==== Sys2Proof/Decode.lean ====
section
/-! DEFINITION. Decode: command words to transactions and back (30_encoding.md sections 1 to 5). -/

namespace Sys2Proof

/-! ### Decoding -/

/-- Why a command word names no transaction (30_encoding.md R71). -/
inductive InvalidReason where
  /-- `op = 111`. -/
  | reservedOp
  /-- A must-be-zero bit of the named transaction is 1. -/
  | mbzNonZero
  deriving DecidableEq, Repr

/-- What a command word decodes to (30_encoding.md R71). -/
inductive Decoded where
  | instr (i : Instr)
  | invalid (reason : InvalidReason)
  deriving DecidableEq, Repr

/-- The transaction, if the word names one. -/
def Decoded.instr? : Decoded → Option Instr
  | .instr i   => some i
  | .invalid _ => none

/-- `w[hi:lo]`, the field from bit `hi` down to bit `lo`, read as an unsigned number (00_scope.md R12). -/
def field (w : CommandWord) (hi lo : Nat) : Nat := w.toNat / 2 ^ lo % 2 ^ (hi - lo + 1)

/-- Answers the transaction, provided its must-be-zero field is zero (30_encoding.md R71). -/
def requireZero (mbz : Nat) (i : Instr) : Decoded :=
  if mbz = 0 then .instr i else .invalid .mbzNonZero

/-- The decoder, total on 64-bit words; the op `w[63:61]` is checked before the must-be-zero bits
(30_encoding.md R70, R71, R74, R76). -/
def decode (w : CommandWord) : Decoded :=
  let op := field w 63 61
  if op = 0b000 then
    requireZero (field w 60 31) (.advance (BitVec.ofNat 32 (field w 30 0)))
  else if op = 0b001 then
    requireZero (field w 60 16) (.writeStatus (BitVec.ofNat 16 (field w 15 0)))
  else if op = 0b010 then
    requireZero (field w 60 0) .readStatus
  else if op = 0b011 then
    requireZero (field w 60 48)
      (.writeVideoReg (BitVec.ofNat 32 (field w 47 16)) (BitVec.ofNat 16 (field w 15 0)))
  else if op = 0b100 then
    requireZero (field w 60 32) (.attachRenderer (BitVec.ofNat 32 (field w 31 0)))
  else if op = 0b101 then
    requireZero (field w 60 0) .powerOn
  else if op = 0b110 then
    requireZero (field w 60 0) .teardown
  else
    .invalid .reservedOp

/-! ### Encoding -/

/-- The command word of a well-formed transaction (30_encoding.md R70, R79). -/
def encode : Instr → CommandWord
  | .advance cycles     => 0x0000000000000000#64 ||| cycles.setWidth 64
  | .writeStatus v      => 0x2000000000000000#64 ||| v.setWidth 64
  | .readStatus         => 0x4000000000000000#64
  | .writeVideoReg a v  => 0x6000000000000000#64 ||| (a.setWidth 64 <<< 16) ||| v.setWidth 64
  | .attachRenderer h   => 0x8000000000000000#64 ||| h.setWidth 64
  | .powerOn            => 0xA000000000000000#64
  | .teardown           => 0xC000000000000000#64

/-! ### The opcode table -/

/-- One row of spec/opcode_table.json: a word belongs to it when `w &&& mask = value`. -/
structure OpcodeRow where
  mnemonic : String
  value    : CommandWord
  mask     : CommandWord
  deriving DecidableEq, Repr

/-- The row of a transaction, the op and must-be-zero bits being the mask (30_encoding.md R71). -/
def Instr.row : Instr → OpcodeRow
  | .advance _         => ⟨"ADVANCE",         0x0000000000000000#64, 0xFFFFFFFF80000000#64⟩
  | .writeStatus _     => ⟨"WRITE_STATUS",    0x2000000000000000#64, 0xFFFFFFFFFFFF0000#64⟩
  | .readStatus        => ⟨"READ_STATUS",     0x4000000000000000#64, 0xFFFFFFFFFFFFFFFF#64⟩
  | .writeVideoReg _ _ => ⟨"WRITE_VIDEO_REG", 0x6000000000000000#64, 0xFFFF000000000000#64⟩
  | .attachRenderer _  => ⟨"ATTACH_RENDERER", 0x8000000000000000#64, 0xFFFFFFFF00000000#64⟩
  | .powerOn           => ⟨"POWER_ON",        0xA000000000000000#64, 0xFFFFFFFFFFFFFFFF#64⟩
  | .teardown          => ⟨"TEARDOWN",        0xC000000000000000#64, 0xFFFFFFFFFFFFFFFF#64⟩

/-- The seven rows, in the table's order (30_encoding.md R75). -/
def opcodeTable : List OpcodeRow :=
  [Instr.row (.advance 0#32), Instr.row (.writeStatus 0#16), Instr.row .readStatus,
   Instr.row (.writeVideoReg 0#32 0#16), Instr.row (.attachRenderer 0#32), Instr.row .powerOn,
   Instr.row .teardown]

/-- The row selects the word. -/
def OpcodeRow.selects (r : OpcodeRow) (w : CommandWord) : Prop := w &&& r.mask = r.value

/-! ### The host's reading of a table word -/

/-- The transaction this decoder reads from an instruction whose bits are `w`: one command word of 64
bits, in no memory, so no byte order enters (30_encoding.md R78; log 17). -/
def decodeTableWord (nbits w : Nat) : Option Instr :=
  if nbits ≤ 64 ∧ w < 2 ^ 64 then (decode (BitVec.ofNat 64 w)).instr? else none

/-! ### Assembler forms and pseudo-instructions (30_encoding.md R79, R80; log 18) -/

/-- A line of a listing, its operands as written, before they are checked against their fields. -/
inductive AsmLine where
  | advance (cycles : Nat)
  | wrstat (value : Nat)
  | rdstat
  | wrvreg (addr value : Nat)
  | attach (handle : Nat)
  | poweron
  | teardown
  /-- Pseudo-instruction: `attach 0`. -/
  | detach
  /-- Pseudo-instruction: a status write given by its fields. -/
  | stat (ve he ce target : Nat)
  /-- Pseudo-instruction: a 16-bit write to the register I/O surface. -/
  | busw16 (addr value : Nat)
  /-- Pseudo-instruction: one whole scanline period. -/
  | line
  deriving DecidableEq, Repr

/-- Why a line does not assemble (30_encoding.md R79, R80). -/
inductive AsmError where
  /-- An operand does not fit its field. -/
  | operandTooLarge
  /-- `busw16` to an address that is no register of this block. -/
  | notThisBlock
  deriving DecidableEq, Repr

/-- `IsVideoReg(a)`: `a` is a video-control register other than the status register (00_scope.md R11). -/
def Params.isVideoReg (p : Params) (a : Addr) : Bool :=
  a != p.statusRegAddr && p.videoRegs.any fun r => r.first.toNat ≤ a.toNat && a.toNat ≤ r.last.toNat

/-- The transactions, when every operand fits. -/
def asmWhen (fits : Bool) (is : List Instr) : Except AsmError (List Instr) :=
  if fits then .ok is else .error .operandTooLarge

/-- The transactions a line stands for (30_encoding.md R79, R80). -/
def AsmLine.expand (p : Params) : AsmLine → Except AsmError (List Instr)
  | .advance c  => asmWhen (c < 2 ^ 31) [.advance (BitVec.ofNat 32 c)]
  | .wrstat v   => asmWhen (v < 2 ^ 16) [.writeStatus (BitVec.ofNat 16 v)]
  | .rdstat     => .ok [.readStatus]
  | .wrvreg a v => asmWhen (a < 2 ^ 32 && v < 2 ^ 16)
      [.writeVideoReg (BitVec.ofNat 32 a) (BitVec.ofNat 16 v)]
  | .attach h   => asmWhen (h < 2 ^ 32) [.attachRenderer (BitVec.ofNat 32 h)]
  | .poweron    => .ok [.powerOn]
  | .teardown   => .ok [.teardown]
  | .detach     => .ok [.attachRenderer 0#32]
  | .stat ve he ce target =>
      asmWhen (ve ≤ 1 && he ≤ 1 && ce ≤ 1 && target < 256)
        [.writeStatus (BitVec.ofNat 16 (target * 256 + ce * 32 + he * 16 + ve * 8))]
  | .busw16 a v =>
      if a < 2 ^ 32 ∧ v < 2 ^ 16 then
        if BitVec.ofNat 32 a = p.statusRegAddr then .ok [.writeStatus (BitVec.ofNat 16 v)]
        else if p.isVideoReg (BitVec.ofNat 32 a) then
          .ok [.writeVideoReg (BitVec.ofNat 32 a) (BitVec.ofNat 16 v)]
        else .error .notThisBlock
      else .error .operandTooLarge
  | .line       => .ok [.advance 1006#32, .advance 226#32]

/-- `rep N { … }`: `N` textual copies of the body (30_encoding.md R80). -/
def rep (n : Nat) (body : List AsmLine) : List AsmLine := (List.replicate n body).flatten

/-- The command words of a listing, up to its first error. -/
def assemble (p : Params) : List AsmLine → Except AsmError (List CommandWord)
  | [] => .ok []
  | l :: rest =>
    match l.expand p, assemble p rest with
    | .ok is, .ok ws  => .ok (is.map encode ++ ws)
    | .error e, _     => .error e
    | .ok _, .error e => .error e

end Sys2Proof
end

