-- ==== Sys2Proof/Machine/HostAccess.lean ====
section
/-! DEFINITION. HostAccess: fetching the host's next request, the decode of the register I/O surface, the
host's accesses to the regions and the renderer's view of them (20_memory.md). -/

namespace Sys2Proof.Machine

/-! ### Fetching a request -/

/-- The next request of the host, taken off the list (20_memory.md R62; log 1). -/
def fetch (s : State) : Option (HostRequest × State) :=
  match s.requests with
  | []        => none
  | r :: rest => some (r, { s with requests := rest })

/-- The command word that a table word stands for (30_encoding.md R70; log 17). -/
def tableWord (w : Nat) : HostRequest := .command (BitVec.ofNat 64 w)

/-- Between transactions the block is idle and all of its state survives (60_exceptions.md R195; log 2). -/
def idle (s : State) : Exec := .next s

/-! ### What a request is -/

/-- A request that is one of the block's: a transaction, or a byte access to a region. -/
inductive Access where
  | transaction (i : Instr)
  | memRead (r : Region) (off : Nat)
  | memWrite (r : Region) (off : Nat) (b : Byte)
  deriving DecidableEq, Repr

/-- The refusal of an invalid command word (30_encoding.md R76). -/
def invalidRefusal : InvalidReason → Refusal
  | .reservedOp => .reservedOp
  | .mbzNonZero => .mbzNonZero

/-- A command word is the transaction it decodes to, or is refused (30_encoding.md R71, R76). -/
def resolveCommand (w : CommandWord) : Except Refusal Access :=
  match decode w with
  | .instr i        => .ok (.transaction i)
  | .invalid reason => .error (invalidRefusal reason)

/-- `BusWrite16(a, v)` (20_memory.md R55). -/
def resolveBusWrite16 (p : Params) (a : Addr) (v : Half) : Except Refusal Access :=
  if a = p.statusRegAddr then .ok (.transaction (.writeStatus v))
  else if p.isVideoReg a then .ok (.transaction (.writeVideoReg a v))
  else .error .notThisBlock

/-- `BusRead16(a)` (20_memory.md R55). -/
def resolveBusRead16 (p : Params) (a : Addr) : Except Refusal Access :=
  if a = p.statusRegAddr then .ok (.transaction .readStatus) else .error .readNotInSource

/-- What a request asks, or why the block refuses it before any transaction begins (20_memory.md R55,
R56). An access of another width is refused whatever its address (log 13). -/
def resolve (p : Params) : HostRequest → Except Refusal Access
  | .command w        => resolveCommand w
  | .busWrite16 a v   => resolveBusWrite16 p a v
  | .busRead16 a      => resolveBusRead16 p a
  | .busWrite8 _ _    => .error .widthNotInSource
  | .busWrite32 _ _   => .error .widthNotInSource
  | .busRead8 _       => .error .widthNotInSource
  | .busRead32 _      => .error .widthNotInSource
  | .memRead r off    => .ok (.memRead r off)
  | .memWrite r off b => .ok (.memWrite r off b)

/-! ### The host's byte accesses to the regions (20_memory.md R54) -/

/-- The guard of a region access: the regions exist (43_lifecycle.md R172; log 10) and the offset is
valid (20_memory.md R50). -/
def whenOffset (r : Region) (off : Nat) (s : State) (body : State → State) : Exec :=
  whenLive s fun s =>
    if off < regionSize s.params r then .next (body s) else .refused .badOffset

/-- `MemRead(r, off, 1)`. -/
def hostRead (r : Region) (off : Nat) (s : State) : Exec :=
  whenOffset r off s fun s => s.answer (.memoryByte (s.regionByte r off))

/-- `MemWrite(r, off, 1, b)`. -/
def hostWrite (r : Region) (off : Nat) (b : Byte) (s : State) : Exec :=
  whenOffset r off s fun s => s.setRegion r ((s.region r).write off b)

/-! ### Wider accesses to the regions, as byte accesses in `REGION_BYTE_ORDER` (20_memory.md R58) -/

/-- Which byte of an `n`-byte value, 0 the least significant, stands at the `k`-th offset. -/
def lane (order : ByteOrder) (n k : Nat) : Nat :=
  match order with
  | .little => k
  | .big    => n - 1 - k

/-- The byte writes by which the host stores an `n`-byte value at `off`. -/
def wideWrite (p : Params) (r : Region) (off n value : Nat) : List HostRequest :=
  (List.range n).map fun k =>
    .memWrite r (off + k) (BitVec.ofNat 8 (value / 256 ^ lane p.regionByteOrder n k))

/-- The `n`-byte value the host assembles from the bytes at `off`. -/
def State.wideValue (s : State) (r : Region) (off n : Nat) : Nat :=
  ((List.range n).map fun k =>
    (s.regionByte r (off + k)).toNat * 256 ^ lane s.params.regionByteOrder n k).sum

/-! ### The renderer's view of the regions (20_memory.md R52, R54, R62) -/

/-- The byte that the renderer addressed by `ev` reads at `off` while it handles `ev`, an event of the
transaction that began in `before`: only a draw or a frame end lets it read, and it sees what the host
left before the transaction (R54, R62; spec decision D34). -/
def rendererSees (before : State) (ev : OutputEvent) (r : Region) (off : Nat) : Option Byte :=
  match ev with
  | .rDrawScanline _ _ | .rFinishFrame _ =>
    if off < regionSize before.params r then some (before.regionByte r off) else none
  | .irq _ | .dmaVblank | .dmaHblank | .paceQuery | .paceFramePosted
  | .rInit _ | .rDeinit _ | .rBind _ | .rWriteReg _ _ _ => none

/-! ### Reason codes -/

/-- The reason code of a refusal (60_exceptions.md R180); an instruction without a meaning has none. -/
def Refusal.code : Refusal → Option Nat
  | .notLive              => some 1
  | .alreadyLive          => some 2
  | .reservedOp           => some 3
  | .mbzNonZero           => some 4
  | .statusViaPassthrough => some 5
  | .notThisBlock         => some 6
  | .readNotInSource      => some 7
  | .widthNotInSource     => some 8
  | .badOffset            => some 9
  | _                     => none

end Sys2Proof.Machine
end

