-- ==== Sys2Proof/Machine/Step.lean ====
section
/-! DEFINITION. Step: one host request, executed as one atomic step (00_scope.md R6, R15). -/

namespace Sys2Proof.Machine

/-- Performs a request that the block admits. -/
def perform (a : Access) (s : State) : Exec :=
  match a with
  | .transaction i    => exec i s
  | .memRead r off    => hostRead r off s
  | .memWrite r off b => hostWrite r off b s

/-- One step: fetch the host's next request, decode it, perform it; idle when there is none. -/
def step (s : State) : Host.Outcome State Fault Refusal :=
  match fetch s with
  | none         => idle s
  | some (r, s') =>
    match resolve s'.params r with
    | .error reason => .refused reason
    | .ok a         => perform a s'

/-- The state whose next step runs the table word `w`: the host has it as its next request (log 1, 17). -/
def State.withFetchWord (s : State) (_nbits w : Nat) : State :=
  { s with requests := tableWord w :: s.requests }

end Sys2Proof.Machine
end

