-- ==== Sys2Proof/Safety.lean ====
section
/-! DEFINITION. Safety: the terms in which claims about the machine are stated: what a step answers, the
invariant of settled states, runs of transactions, and budget-respecting calls. -/

namespace Sys2Proof.Machine

/-! ### What a step answers -/

/-- The next state, if there is one. -/
def nextState : Exec → Option State
  | .next s    => some s
  | .fault _   => none
  | .refused _ => none

/-- The reason of a refusal, if it is one. -/
def refusalOf : Exec → Option Refusal
  | .next _    => none
  | .fault _   => none
  | .refused r => some r

/-- The host may issue the transaction here: POWER_ON only when not live, every other one only when live,
and no pass-through write to the status address (10_state.md R30, 42_renderer.md R150). -/
def Admitted (i : Instr) (s : State) : Prop :=
  match i with
  | .advance _         => s.live = true
  | .writeStatus _     => s.live = true
  | .readStatus        => s.live = true
  | .writeVideoReg a _ => s.live = true ∧ a ≠ s.params.statusRegAddr
  | .attachRenderer _  => s.live = true
  | .powerOn           => s.live = false
  | .teardown          => s.live = true

/-- An ADVANCE of `cycles` performs an event: E, less the cycles, is no longer positive (40_timing.md
R90). -/
def EventDue (cycles : Word) (s : State) : Prop := (s.video.cyclesToNextEvent - cycles).toInt ≤ 0

/-- The scanline an End-of-Hblank from `s` leads to (40_timing.md R95, R96). -/
def nextLine (s : State) : Word :=
  if s.video.scanline + 1#32 = 228#32 then 0#32 else s.video.scanline + 1#32

/-! ### The invariant of settled states -/

/-- The table of 10_state.md R36 for L, H, D and HI. -/
def Video.CountdownTable (v : Video) : Prop :=
  if v.inHblank then
    v.cyclesSinceLastHblankStart = 0#32 ∧ v.cyclesToNextHblankStart = 1232#32 ∧
      v.lastEventDiff = 226#32 ∧ v.cyclesToNextHblankIRQ = 1232#32
  else if v.scanline = -1#32 then
    v.cyclesSinceLastHblankStart = 0#32 ∧ v.cyclesToNextHblankStart = 1006#32 ∧
      v.lastEventDiff = 1006#32 ∧ v.cyclesToNextHblankIRQ = 0#32
  else
    v.cyclesSinceLastHblankStart = -226#32 ∧ v.cyclesToNextHblankStart = 1006#32 ∧
      v.lastEventDiff = 1006#32 ∧ v.cyclesToNextHblankIRQ = 1006#32

/-- Cycles from the start of the line to the base instant: the Hdraw length in Hblank, else zero
(10_state.md R27). -/
def Video.phaseOffset (v : Video) : Int := if v.inHblank then 1006 else 0

/-- The value of VI (10_state.md R36): it falls by D at every event and is set to a frame at each entry
into line 160. -/
def Video.VblankCountdown (v : Video) : Prop :=
  let line := v.scanline.toInt
  let vi := v.cyclesToNextVblankIRQ.toInt
  if 160 ≤ line then vi = (388 - line) * 1232 - v.phaseOffset
  else
    vi = -(line + 1) * 1232 - v.phaseOffset ∨
      (0 ≤ line ∧ vi = (160 - line) * 1232 - v.phaseOffset)

/-- A settled state's video fields (10_state.md R20, R22, R35, R36). -/
structure Video.Settled (v : Video) : Prop where
  lineRange       : -1 ≤ v.scanline.toInt ∧ v.scanline.toInt ≤ 227
  vblankFlag      : v.inVblank = true ↔ 160 ≤ v.scanline.toInt ∧ v.scanline.toInt ≤ 226
  budgetRange     : 1 ≤ v.cyclesToNextEvent.toInt ∧
    v.cyclesToNextEvent.toInt ≤ if v.inHblank then 226 else 1006
  countdownTable  : v.CountdownTable
  vblankCountdown : v.VblankCountdown
  preRollMatch    : v.scanline = -1#32 → v.vcounterMatch = false

/-- The invariant every step keeps: a live block is settled; a block that is not live has the dummy
renderer and no regions; the regions keep their canonical form and hold valid offsets only. -/
structure State.Inv (s : State) : Prop where
  settled   : s.live = true → s.video.Settled
  dormant   : s.live = false →
    s.renderer = Config.dummy ∧ s.vram = [] ∧ s.palette = [] ∧ s.oam = []
  canonical : ∀ r, (s.region r).wf
  inside    : ∀ r, ∀ c ∈ s.region r, c.1 < regionSize s.params r

/-! ### Runs of transactions -/

/-- Runs transactions in order: the last state, and the output events of all of them in emission order;
none if one is refused. -/
def run : List Instr → State → Option (State × List OutputEvent)
  | [], s      => some (s, [])
  | i :: is, s =>
    match exec i s with
    | .next t    => (run is t).map fun p => (p.1, t.outputs ++ p.2)
    | .fault _   => none
    | .refused _ => none

/-- A run of ADVANCE calls. -/
def runAdvances (cs : List Word) (s : State) : Option (State × List OutputEvent) :=
  run (cs.map .advance) s

/-- Elapsed cycles of a list of ADVANCE calls. -/
def elapsed (cs : List Word) : Nat := (cs.map BitVec.toNat).sum

/-- Every ADVANCE passes at most the budget, that is, E (70_reset_and_hazards.md R214). -/
def WithinBudget : List Word → State → Prop
  | [], _      => True
  | c :: cs, s =>
    (c.toNat : Int) ≤ s.video.cyclesToNextEvent.toInt ∧
      ∀ t, exec (.advance c) s = .next t → WithinBudget cs t

/-- No transaction of the list performs an End-of-Hblank. -/
def NoEndOfHblank : List Instr → State → Prop
  | [], _      => True
  | i :: is, s =>
    (¬ ∃ c, i = .advance c ∧ EventDue c s ∧ s.video.inHblank = true) ∧
      ∀ t, exec i s = .next t → NoEndOfHblank is t

/-- The scanlines entered by the End-of-Hblanks of a run of ADVANCE calls, in order. -/
def linesEntered : List Word → State → List Word
  | [], _      => []
  | c :: cs, s =>
    match exec (.advance c) s with
    | .next t    =>
      if s.video.inHblank && !t.video.inHblank then t.video.scanline :: linesEntered cs t
      else linesEntered cs t
    | .fault _   => []
    | .refused _ => []

/-! ### Comparing two states -/

/-- The same block: the spec's own state and its parameters, without the host's side. -/
def SameBlock (s t : State) : Prop :=
  s.video = t.video ∧ s.renderer = t.renderer ∧ s.live = t.live ∧ s.vram = t.vram ∧
    s.palette = t.palette ∧ s.oam = t.oam ∧ s.params = t.params

/-- The states differ at most in L, HI, VI and CI, the countdowns that decide nothing
(10_state.md R26, 70_reset_and_hazards.md R217). -/
def SameButInertCountdowns (s t : State) : Prop :=
  t = { s with
    video := { s.video with
      cyclesSinceLastHblankStart := t.video.cyclesSinceLastHblankStart
      cyclesToNextHblankIRQ      := t.video.cyclesToNextHblankIRQ
      cyclesToNextVblankIRQ      := t.video.cyclesToNextVblankIRQ
      cyclesToNextVcounterIRQ    := t.video.cyclesToNextVcounterIRQ } }

/-- The states differ at most in the pacing collaborator's answers still to come. -/
def SameButPacing (s t : State) : Prop :=
  t = { s with pacingAnswers := t.pacingAnswers, pacingDraws := t.pacingDraws }

/-- The events that a pacing answer decides: a drawn scanline, a finished frame. -/
def OutputEvent.isPaced : OutputEvent → Bool
  | .rDrawScanline _ _ | .rFinishFrame _ => true
  | .irq _ | .dmaVblank | .dmaHblank | .paceQuery | .paceFramePosted
  | .rInit _ | .rDeinit _ | .rBind _ | .rWriteReg _ _ _ => false

end Sys2Proof.Machine
end

