-- ==== Sys2Proof/Certificates/Slice0/Obligations.lean ====
section
/-! DEFINITION. Obligations: the statements for the provers, drawn from the spec's numbered rules. -/

open Sys2Proof Sys2Proof.Machine

/-! ## Encoding -/

/-- A word decodes to a transaction exactly when the transaction is well formed and the word is its
encoding: no bit of an encoding is dropped and each word has one meaning. The command word is the spec's
own choice (92_eei_decisions.md D2). -/
def Obligations.DecodeAndEncodeAgree : Prop :=
  ∀ (w : CommandWord) (i : Instr), decode w = .instr i ↔ i.WellFormed ∧ encode i = w

/-- The rows of the opcode table select exactly the words that decode to their transaction (the
table is the spec's own choice, 92_eei_decisions.md D2). -/
def Obligations.TableRowsSelectWhatDecodes : Prop :=
  ∀ w : CommandWord,
    (∀ i, decode w = .instr i → i.row ∈ opcodeTable ∧ i.row.selects w) ∧
    (∀ r ∈ opcodeTable, r.selects w → ∃ i, decode w = .instr i ∧ i.row = r)

/-- A word that names no transaction is `ReservedOp` exactly when its op is 111, and `MBZNonZero` exactly
when its op is another one and no row of the table selects it: the op is checked before the must-be-zero
bits (92_eei_decisions.md D2). -/
def Obligations.InvalidWordsAreNamed : Prop :=
  ∀ w : CommandWord,
    (decode w = .invalid .reservedOp ↔ field w 63 61 = 7) ∧
    (decode w = .invalid .mbzNonZero ↔ field w 63 61 ≠ 7 ∧ ∀ r ∈ opcodeTable, ¬ r.selects w)

/-- Words written out from the spec's table decode to the transactions they stand for (the layout of a
command word is the spec's own choice, 92_eei_decisions.md D2, log 17). -/
def Obligations.SpecWordsDecode : Prop :=
  decode 0x00000000000003EE#64 = .instr (.advance 1006#32) ∧
  decode 0x000000007FFFFFFF#64 = .instr (.advance 2147483647#32) ∧
  decode 0x0000000080000000#64 = .invalid .mbzNonZero ∧
  decode 0x200000000000FFFF#64 = .instr (.writeStatus 0xFFFF#16) ∧
  decode 0x4000000000000000#64 = .instr .readStatus ∧
  decode 0x6000040000081F00#64 = .instr (.writeVideoReg 0x04000008#32 0x1F00#16) ∧
  decode 0x80000000FFFFFFFF#64 = .instr (.attachRenderer 4294967295#32) ∧
  decode 0xA000000000000000#64 = .instr .powerOn ∧
  decode 0xC000000000000000#64 = .instr .teardown ∧
  decode 0xD000000000000000#64 = .invalid .mbzNonZero ∧
  decode 0xE000000000000000#64 = .invalid .reservedOp ∧
  decode 0xFFFFFFFFFFFFFFFF#64 = .invalid .reservedOp

/-- Each form of the assembler: a line whose operands fit stands for its transaction and assembles to its
command word, an operand that does not fit is an error, and the words of a listing decode back, in order, to
the well-formed transactions its lines stand for (the assembler is the spec's own choice,
92_eei_decisions.md D3, log 18). -/
def Obligations.AssembledLinesDecodeBack : Prop :=
  ∀ p : Params,
    (∀ c,
      (c < 2 ^ 31 →
        AsmLine.expand p (.advance c) = .ok [.advance (BitVec.ofNat 32 c)] ∧
        assemble p [.advance c] = .ok [(0b000#64 <<< 61) ||| BitVec.ofNat 64 c]) ∧
      (2 ^ 31 ≤ c → AsmLine.expand p (.advance c) = .error .operandTooLarge)) ∧
    (∀ v,
      (v < 2 ^ 16 →
        AsmLine.expand p (.wrstat v) = .ok [.writeStatus (BitVec.ofNat 16 v)] ∧
        assemble p [.wrstat v] = .ok [(0b001#64 <<< 61) ||| BitVec.ofNat 64 v]) ∧
      (2 ^ 16 ≤ v → AsmLine.expand p (.wrstat v) = .error .operandTooLarge)) ∧
    (∀ a v,
      (a < 2 ^ 32 → v < 2 ^ 16 →
        AsmLine.expand p (.wrvreg a v) =
          .ok [.writeVideoReg (BitVec.ofNat 32 a) (BitVec.ofNat 16 v)] ∧
        assemble p [.wrvreg a v] =
          .ok [(0b011#64 <<< 61) ||| (BitVec.ofNat 64 a <<< 16) ||| BitVec.ofNat 64 v]) ∧
      (2 ^ 32 ≤ a ∨ 2 ^ 16 ≤ v →
        AsmLine.expand p (.wrvreg a v) = .error .operandTooLarge)) ∧
    (∀ h,
      (h < 2 ^ 32 →
        AsmLine.expand p (.attach h) = .ok [.attachRenderer (BitVec.ofNat 32 h)] ∧
        assemble p [.attach h] = .ok [(0b100#64 <<< 61) ||| BitVec.ofNat 64 h]) ∧
      (2 ^ 32 ≤ h → AsmLine.expand p (.attach h) = .error .operandTooLarge)) ∧
    (AsmLine.expand p .rdstat = .ok [.readStatus] ∧
      assemble p [.rdstat] = .ok [0x4000000000000000#64]) ∧
    (AsmLine.expand p .poweron = .ok [.powerOn] ∧
      assemble p [.poweron] = .ok [0xA000000000000000#64]) ∧
    (AsmLine.expand p .teardown = .ok [.teardown] ∧
      assemble p [.teardown] = .ok [0xC000000000000000#64]) ∧
    (∀ ls ws, assemble p ls = .ok ws →
      ∃ iss, List.Forall₂ (fun l is => AsmLine.expand p l = .ok is) ls iss ∧
        (∀ i ∈ iss.flatten, i.WellFormed) ∧
        ws.map decode = iss.flatten.map .instr)

/-- The pseudo-instructions: `detach` is `attach 0`; `line` is `advance 1006` then `advance 226`; `stat`
writes a status value whose fields are its operands and nothing else; `busw16` is the write that the
register I/O surface decodes its address to. The notation is the spec's own (92_eei_decisions.md D3). -/
def Obligations.PseudoInstructionsExpand : Prop :=
  ∀ p : Params,
    AsmLine.expand p .detach = AsmLine.expand p (.attach 0) ∧
    AsmLine.expand p .line = .ok [.advance 1006#32, .advance 226#32] ∧
    (∀ ve he ce target, ve ≤ 1 → he ≤ 1 → ce ≤ 1 → target < 256 →
      ∃ v, AsmLine.expand p (.stat ve he ce target) = .ok [.writeStatus v] ∧
        v.getLsbD 3 = decide (ve = 1) ∧ v.getLsbD 4 = decide (he = 1) ∧
        v.getLsbD 5 = decide (ce = 1) ∧ v.toNat / 256 = target ∧
        v.toNat % 8 = 0 ∧ v.toNat / 64 % 4 = 0) ∧
    (∀ (a : Addr) (v : Half),
      AsmLine.expand p (.busw16 a.toNat v.toNat) =
        if a = p.statusRegAddr then .ok [.writeStatus v]
        else if p.isVideoReg a then .ok [.writeVideoReg a v]
        else .error .notThisBlock)

/-! ## The step and the host's requests -/

/-- When the host's next request is a command word that decodes to a transaction, the step is that
transaction, on the state without the request. -/
def Obligations.StepRunsDecodedTransaction : Prop :=
  ∀ (s : State) (w : CommandWord) (rest : List HostRequest) (i : Instr),
    s.requests = .command w :: rest → decode w = .instr i →
      step s = exec i { s with requests := rest }

/-- An invalid command word is refused whatever the state: no next state, so no state change and no
output (the encoding is the spec's own choice, 92_eei_decisions.md D2). -/
def Obligations.StepRefusesInvalidWords : Prop :=
  ∀ (s : State) (w : CommandWord) (rest : List HostRequest), s.requests = .command w :: rest →
    (decode w = .invalid .reservedOp → step s = .refused .reservedOp) ∧
    (decode w = .invalid .mbzNonZero → step s = .refused .mbzNonZero)

/-- The register I/O surface: a 16-bit write is WRITE_STATUS at the status address, WRITE_VIDEO_REG at a
video register, else refused; a 16-bit read is READ_STATUS at the status address, else refused. Which
addresses these are is a parameter; the refusals are the spec's own choice (92_eei_decisions.md D20,
D21). -/
def Obligations.StepDecodesBusAccesses : Prop :=
  ∀ (s : State) (a : Addr) (v : Half) (rest : List HostRequest),
    (s.requests = .busWrite16 a v :: rest →
      step s =
        if a = s.params.statusRegAddr then exec (.writeStatus v) { s with requests := rest }
        else if ∃ g ∈ s.params.videoRegs, g.first.toNat ≤ a.toNat ∧ a.toNat ≤ g.last.toNat then
          exec (.writeVideoReg a v) { s with requests := rest }
        else .refused .notThisBlock) ∧
    (s.requests = .busRead16 a :: rest →
      step s =
        if a = s.params.statusRegAddr then exec .readStatus { s with requests := rest }
        else .refused .readNotInSource)

/-- An 8-bit or 32-bit register access is refused, whatever its address and value
(92_eei_decisions.md D20; that the width is looked at before the address is the model's choice, log 13). -/
def Obligations.StepRefusesOtherWidths : Prop :=
  ∀ (s : State) (a : Addr) (b : Byte) (v : Word) (rest : List HostRequest),
    (s.requests = .busWrite8 a b :: rest → step s = .refused .widthNotInSource) ∧
    (s.requests = .busWrite32 a v :: rest → step s = .refused .widthNotInSource) ∧
    (s.requests = .busRead8 a :: rest → step s = .refused .widthNotInSource) ∧
    (s.requests = .busRead32 a :: rest → step s = .refused .widthNotInSource)

/-- With no request the block is idle and all of its state survives (that a step without a request is
such an idle step is the model's choice, log 2). -/
def Obligations.StepIdlesWithoutRequest : Prop :=
  ∀ s : State, s.requests = [] → step s = .next s

/-- Every step leaves the parameters alone and takes exactly one request off the list (the list is the
model's own field, log 1). -/
def Obligations.StepKeepsParamsAndTakesOneRequest : Prop :=
  ∀ s t : State, step s = .next t → t.params = s.params ∧ t.requests = s.requests.tail

/-- A host read of a valid offset answers the byte and changes nothing else. -/
def Obligations.HostReadAnswersTheByte : Prop :=
  ∀ (s : State) (r : Region) (off : Nat) (rest : List HostRequest),
    s.live = true → off < regionSize s.params r → s.requests = .memRead r off :: rest →
      step s = .next { s with
        requests := rest, outputs := [], result := .memoryByte (s.regionByte r off) }

/-- A host write of a valid offset stores that byte and leaves every other byte of every region, and all
the rest of the block, as it was. The region's canonical form, which every step keeps, is the premise. -/
def Obligations.HostWriteStoresOneByte : Prop :=
  ∀ (s : State) (r : Region) (off : Nat) (b : Byte) (rest : List HostRequest),
    s.live = true → off < regionSize s.params r → (s.region r).wf →
      s.requests = .memWrite r off b :: rest →
      ∃ t, step s = .next t ∧ t.regionByte r off = b ∧
        (∀ q x, (q, x) ≠ (r, off) → t.regionByte q x = s.regionByte q x) ∧
        t.video = s.video ∧ t.renderer = s.renderer ∧ t.live = s.live ∧ t.params = s.params ∧
        t.outputs = [] ∧ t.result = .noResult ∧ t.requests = rest ∧
        t.pacingAnswers = s.pacingAnswers ∧ t.pacingDraws = s.pacingDraws ∧
        t.rendererAnswers = s.rendererAnswers ∧ t.rendererDraws = s.rendererDraws

/-- The regions exist from POWER_ON, which leaves every byte zero, to TEARDOWN, after which every access is
refused. -/
def Obligations.RegionsLiveFromPowerOnToTeardown : Prop :=
  ∀ s t : State,
    (exec .powerOn s = .next t → ∀ r off rest, off < regionSize s.params r →
      step { t with requests := .memRead r off :: rest } =
        .next { t with requests := rest, outputs := [], result := .memoryByte 0x00#8 }) ∧
    (exec .teardown s = .next t → ∀ r off b rest,
      (∃ reason, step { t with requests := .memRead r off :: rest } = .refused reason) ∧
      (∃ reason, step { t with requests := .memWrite r off b :: rest } = .refused reason))

/-- A host access outside the region, or to a block that is not live, is refused. That the second reason
is NotLive is the model's reading (log 10). -/
def Obligations.HostAccessRefusals : Prop :=
  ∀ (s : State) (r : Region) (off : Nat) (b : Byte) (rest : List HostRequest),
    (s.requests = .memRead r off :: rest ∨ s.requests = .memWrite r off b :: rest) →
      (s.live = false → step s = .refused .notLive) ∧
      (s.live = true → regionSize s.params r ≤ off → step s = .refused .badOffset)

/-- The bytes of a wide host write, in either byte order, read back as the value written
(`REGION_BYTE_ORDER` is a parameter, 92_eei_decisions.md D23). -/
def Obligations.WideHostWriteReadsBack : Prop :=
  ∀ (s : State) (r : Region) (off n value : Nat),
    s.Inv → s.live = true → off + n ≤ regionSize s.params r →
      s.requests = wideWrite s.params r off n value →
      ∃ t : State, Host.Core.run Sys2Proof.core n s = .next t ∧
        t.wideValue r off n = value % 256 ^ n ∧
        ∀ q x, (q ≠ r ∨ x < off ∨ off + n ≤ x) → t.regionByte q x = s.regionByte q x

/-! ## The invariant -/

/-- Every step from a state that meets the invariant leads to one that meets it: settled countdowns and
flags, regions in canonical form, nothing left of a block that is not live. -/
def Obligations.StepKeepsInvariant : Prop :=
  ∀ s t : State, s.Inv → step s = .next t → t.Inv

/-- The state after reset meets the invariant. -/
def Obligations.ResetMeetsInvariant : Prop := State.reset.Inv

/-- A transaction answers a next state exactly when it is admitted: POWER_ON on a block that is not live,
every other one on a live block, and no pass-through write to the status address (the guards are the
spec's own choice, 92_eei_decisions.md D19, D26). -/
def Obligations.TransactionsCompleteExactlyWhenAdmitted : Prop :=
  ∀ (i : Instr) (s : State), (∃ t, exec i s = .next t) ↔ Admitted i s

/-- A transaction that is refused says why: NotLive, AlreadyLive or StatusViaPassthrough, and for no other
reason (92_eei_decisions.md D19, D26, D29). -/
def Obligations.RefusedTransactionsSayWhy : Prop :=
  ∀ (i : Instr) (s : State), ¬ Admitted i s →
    exec i s = .refused
      (if i = .powerOn then .alreadyLive
       else if s.live = false then .notLive else .statusViaPassthrough)

/-! ## ADVANCE -/

/-- ADVANCE short of the next event lowers E by the cycles, answers it, and changes nothing else. -/
def Obligations.AdvanceShortOfTheEventLowersE : Prop :=
  ∀ (s : State) (c : Word), s.live = true → 0 < (s.video.cyclesToNextEvent - c).toInt →
    exec (.advance c) s = .next { s with
      video   := { s.video with cyclesToNextEvent := s.video.cyclesToNextEvent - c }
      outputs := []
      result  := .budget (s.video.cyclesToNextEvent - c) }

/-- ADVANCE with an event due in Hdraw is the rebase and the Start-of-Hblank, and nothing else changes.
Which countdowns the rebase covers, the value of HI and the DMA trigger of the pre-roll line -1 are the spec's
own choices (92_eei_decisions.md D9, D10, D15, log 19, log 22). -/
def Obligations.AdvanceStartsHblank : Prop :=
  ∀ (s : State) (c : Word), s.live = true → s.video.inHblank = false → EventDue c s →
    let base := s.video.cyclesToNextHblankStart - s.video.lastEventDiff
    exec (.advance c) s = .next { s with
      video := { s.video with
        inHblank                   := true
        cyclesSinceLastHblankStart := base
        cyclesToNextEvent          := base + 226#32
        cyclesToNextHblankStart    := base + 226#32 + 1006#32
        cyclesToNextHblankIRQ      := base + 226#32 + 1006#32
        cyclesToNextVblankIRQ      := s.video.cyclesToNextVblankIRQ - s.video.lastEventDiff
        cyclesToNextVcounterIRQ    := s.video.cyclesToNextVcounterIRQ - s.video.lastEventDiff
        lastEventDiff              := base + 226#32 }
      outputs := (if s.video.scanline.toInt < 160 then [.dmaHblank] else []) ++
        (if s.video.hblankIRQEnabled then [.irq .hblank] else [])
      result  := .budget (base + 226#32) }

/-- The outputs of a Start-of-Hblank, in order: the DMA trigger on lines -1 to 159 only, then the Hblank
interrupt on every line when its enable is set (that the pre-roll line -1 counts as visible is the spec's own
choice, 92_eei_decisions.md D15, log 22). -/
def Obligations.StartOfHblankOutputs : Prop :=
  ∀ (s : State) (c : Word), s.Inv → s.live = true → s.video.inHblank = false → EventDue c s →
    ∃ t, exec (.advance c) s = .next t ∧
      -1 ≤ s.video.scanline.toInt ∧ s.video.scanline.toInt ≤ 227 ∧
      (s.video.scanline.toInt ≤ 159 → t.outputs =
        if s.video.hblankIRQEnabled then [.dmaHblank, .irq .hblank] else [.dmaHblank]) ∧
      (160 ≤ s.video.scanline.toInt → t.outputs =
        if s.video.hblankIRQEnabled then [.irq .hblank] else [])

/-- ADVANCE with an event due in Hblank is the rebase and the End-of-Hblank: every video field, the
result, and what stays (the outputs are EventOutputsFollowTheOrder's). The rebase of VI and the values of VI
and CI are the spec's own choices (92_eei_decisions.md D9, D11, D12). -/
def Obligations.AdvanceEndsHblank : Prop :=
  ∀ (s : State) (c : Word), s.live = true → s.video.inHblank = true → EventDue c s →
    let line := nextLine s
    let base := s.video.cyclesToNextHblankStart - s.video.lastEventDiff
    let hit  := decide (line = s.video.vcountTarget.setWidth 32)
    let ci   := s.video.cyclesToNextVcounterIRQ - s.video.lastEventDiff
    ∃ t, exec (.advance c) s = .next t ∧
      t.video = { s.video with
        scanline                   := line
        inHblank                   := false
        inVblank                   :=
          if line = 160#32 then true else if line = 227#32 then false else s.video.inVblank
        vcounterMatch              := hit
        cyclesToNextEvent          := base
        cyclesSinceLastHblankStart :=
          s.video.cyclesSinceLastHblankStart - s.video.lastEventDiff
        cyclesToNextHblankStart    := base
        cyclesToNextHblankIRQ      := s.video.cyclesToNextHblankIRQ - s.video.lastEventDiff
        cyclesToNextVblankIRQ      :=
          if line = 160#32 then 280896#32
          else s.video.cyclesToNextVblankIRQ - s.video.lastEventDiff
        cyclesToNextVcounterIRQ    :=
          if hit && s.video.vcounterIRQEnabled then ci + 280896#32 else ci
        lastEventDiff              := base } ∧
      t.result = .budget base ∧ t.renderer = s.renderer ∧ t.live = true ∧ t.params = s.params ∧
      t.requests = s.requests ∧ t.rendererAnswers = s.rendererAnswers ∧
      t.rendererDraws = s.rendererDraws ∧ ∀ r off, t.regionByte r off = s.regionByte r off

/-- The output list of every event, in order, and the pacing answer it uses up. The place of PACE_FRAME_POSTED, the number of pacing queries
and the visible pre-roll line are the spec's own choices (92_eei_decisions.md D13, D14, D15); the pacing
answer is an input or a free value (log 5, log 21). -/
def Obligations.EventOutputsFollowTheOrder : Prop :=
  ∀ (s : State) (c : Word), s.live = true → EventDue c s →
    let line := nextLine s
    let vcounter : List OutputEvent :=
      if s.video.vcounterIRQEnabled ∧ line = s.video.vcountTarget.setWidth 32 then [.irq .vcounter]
      else []
    ∃ t, exec (.advance c) s = .next t ∧ t.outputs =
      (if s.video.inHblank = false then
        (if s.video.scanline.toInt < 160 then [.dmaHblank] else []) ++
          (if s.video.hblankIRQEnabled then [.irq .hblank] else [])
      else if line = 160#32 then
        [.paceQuery] ++ (if s.pacingAnswer then [.rFinishFrame s.renderer] else []) ++
          [.dmaVblank] ++ (if s.video.vblankIRQEnabled then [.irq .vblank] else []) ++
          [.paceFramePosted] ++ vcounter
      else if line.toInt < 160 then
        vcounter ++ [.paceQuery] ++
          (if s.pacingAnswer then [.rDrawScanline s.renderer line] else [])
      else vcounter) ∧
      t.pacingAnswers =
        (if .paceQuery ∈ t.outputs then s.pacingAnswers.tail else s.pacingAnswers) ∧
      t.pacingDraws =
        if .paceQuery ∈ t.outputs ∧ s.pacingAnswers = [] then s.pacingDraws + 1 else s.pacingDraws

/-- The common part of an End-of-Hblank: `inHblank` is cleared, E is the countdown for the next Hblank start,
1006 at every settled state, and the scanline is incremented: -1 to 0, and 227 to 228, which the wrap makes
0. -/
def Obligations.EndOfHblankCommonPart : Prop :=
  ∀ (s : State) (c : Word), s.Inv → s.live = true → s.video.inHblank = true → EventDue c s →
    ∃ t, exec (.advance c) s = .next t ∧ t.video.inHblank = false ∧
      t.video.cyclesToNextEvent.toInt = 1006 ∧
      t.video.cyclesToNextEvent = t.video.cyclesToNextHblankStart ∧
      t.video.scanline.toInt =
        if s.video.scanline.toInt + 1 = 228 then 0 else s.video.scanline.toInt + 1

/-- After an event, D is the E that the transition set, 226 after a Start-of-Hblank and 1006 after an
End-of-Hblank; ADVANCE answers it; and the next event lowers by it the countdowns its transition does not
write: L, H and HI at an End-of-Hblank, VI and CI at a Start-of-Hblank (which countdowns the rebase covers is
the spec's own choice, 92_eei_decisions.md D9). -/
def Obligations.EventDistanceIsRecorded : Prop :=
  ∀ (s : State) (c : Word), s.Inv → s.live = true → EventDue c s →
    ∃ t, exec (.advance c) s = .next t ∧
      t.video.lastEventDiff = t.video.cyclesToNextEvent ∧
      t.video.cyclesToNextEvent = (if s.video.inHblank then 1006#32 else 226#32) ∧
      t.result = .budget t.video.cyclesToNextEvent ∧
      ∀ d u, EventDue d t → exec (.advance d) t = .next u →
        if t.video.inHblank then
          u.video.cyclesSinceLastHblankStart =
              t.video.cyclesSinceLastHblankStart - t.video.lastEventDiff ∧
            u.video.cyclesToNextHblankStart =
              t.video.cyclesToNextHblankStart - t.video.lastEventDiff ∧
            u.video.cyclesToNextHblankIRQ = t.video.cyclesToNextHblankIRQ - t.video.lastEventDiff
        else
          u.video.cyclesToNextVblankIRQ =
              t.video.cyclesToNextVblankIRQ - t.video.lastEventDiff ∧
            u.video.cyclesToNextVcounterIRQ =
              t.video.cyclesToNextVcounterIRQ - t.video.lastEventDiff

/-- One ADVANCE performs at most one event and the excess is lost: two calls that both reach the event
do the same, and the phase changes once (that a call beyond the budget is admitted and computed so is the
spec's own choice, 92_eei_decisions.md D27, log 28). -/
def Obligations.OvershootIsLost : Prop :=
  ∀ (s : State) (c d : Word), s.live = true → EventDue c s → EventDue d s →
    exec (.advance c) s = exec (.advance d) s ∧
      ∃ t, exec (.advance c) s = .next t ∧ t.video.inHblank = !s.video.inHblank

/-- From a settled state every ADVANCE answers a budget of at least 1, and at most the length of the
phase it leads to. -/
def Obligations.BudgetStaysInRange : Prop :=
  ∀ (s : State) (c : Word), s.Inv → s.live = true → c.toNat < 2 ^ 31 →
    ∃ t, exec (.advance c) s = .next t ∧ t.result = .budget t.video.cyclesToNextEvent ∧
      1 ≤ t.video.cyclesToNextEvent.toInt ∧
      t.video.cyclesToNextEvent.toInt ≤ if t.video.inHblank then 226 else 1006

/-! ## Whole-machine rules -/

/-- The phase flag: an event sets it in Hdraw and clears it in Hblank, no other transaction but POWER_ON
writes it; it selects which transition an event performs (a Start-of-Hblank leaves the line alone, an
End-of-Hblank leads to the next line); READ_STATUS answers it as bit 1. -/
def Obligations.PhaseFlagFollowsTheEvents : Prop :=
  ∀ s : State,
    (∀ i t, exec i s = .next t → i ≠ .powerOn →
      (t.video.inHblank ≠ s.video.inHblank ↔ ∃ c, i = .advance c ∧ EventDue c s)) ∧
    (∀ c t, exec (.advance c) s = .next t → EventDue c s →
      t.video.inHblank = (!s.video.inHblank) ∧
      t.video.scanline = if s.video.inHblank then nextLine s else s.video.scanline) ∧
    (s.live = true → ∃ t v, exec .readStatus s = .next t ∧ t.result = .statusValue v ∧
      v.getLsbD 1 = s.video.inHblank)

/-- The match flag: within a session only an End-of-Hblank writes it, as the comparison of the final scanline
with the target (POWER_ON, which starts a session, is left out here); READ_STATUS answers it as bit 2; no
vcounter interrupt is raised without it. -/
def Obligations.MatchFlagIsWrittenByEndOfHblank : Prop :=
  ∀ s : State,
    (∀ i t, exec i s = .next t → i ≠ .powerOn →
      ((∃ c, i = .advance c ∧ EventDue c s ∧ s.video.inHblank = true) →
        t.video.vcounterMatch = decide (t.video.scanline = t.video.vcountTarget.setWidth 32)) ∧
      ((¬ ∃ c, i = .advance c ∧ EventDue c s ∧ s.video.inHblank = true) →
        t.video.vcounterMatch = s.video.vcounterMatch) ∧
      (.irq .vcounter ∈ t.outputs → t.video.vcounterMatch = true)) ∧
    (s.live = true → ∃ t v, exec .readStatus s = .next t ∧ t.result = .statusValue v ∧
      v.getLsbD 2 = s.video.vcounterMatch)

/-- The three enables: WRITE_STATUS writes them from bits 3, 4 and 5, and no other transaction but POWER_ON
changes them; each gates its interrupt; the vcounter enable gates the recomputation of CI; READ_STATUS
answers the same value whatever they are, and bits 3 to 15 of it are zero. -/
def Obligations.EnablesAreStatusBitsAndGates : Prop :=
  ∀ s : State,
    (∀ v t, exec (.writeStatus v) s = .next t →
      t.video.vblankIRQEnabled = v.getLsbD 3 ∧ t.video.hblankIRQEnabled = v.getLsbD 4 ∧
      t.video.vcounterIRQEnabled = v.getLsbD 5 ∧
      (v.getLsbD 5 = false →
        t.video.cyclesToNextVcounterIRQ = s.video.cyclesToNextVcounterIRQ)) ∧
    (∀ i t, exec i s = .next t →
      ((∀ v, i ≠ .writeStatus v) → i ≠ .powerOn →
        t.video.vblankIRQEnabled = s.video.vblankIRQEnabled ∧
        t.video.hblankIRQEnabled = s.video.hblankIRQEnabled ∧
        t.video.vcounterIRQEnabled = s.video.vcounterIRQEnabled) ∧
      (.irq .vblank ∈ t.outputs → s.video.vblankIRQEnabled = true) ∧
      (.irq .hblank ∈ t.outputs → s.video.hblankIRQEnabled = true) ∧
      (.irq .vcounter ∈ t.outputs → s.video.vcounterIRQEnabled = true)) ∧
    (∀ ve he ce t u,
      exec .readStatus s = .next t →
      exec .readStatus { s with
        video := { s.video with
          vblankIRQEnabled := ve, hblankIRQEnabled := he, vcounterIRQEnabled := ce } } = .next u →
      t.result = u.result) ∧
    (s.live = true → ∃ t v, exec .readStatus s = .next t ∧ t.result = .statusValue v ∧
      v.toNat < 2 ^ 3)

/-- Which transaction raises which interrupt, exactly: the Vblank interrupt at the End-of-Hblank into line
160, the Hblank interrupt at every Start-of-Hblank, the vcounter interrupt at the End-of-Hblank whose final
scanline is the target, each with its enable set at that event. -/
def Obligations.InterruptSources : Prop :=
  ∀ (i : Instr) (s t : State), exec i s = .next t →
    (.irq .vblank ∈ t.outputs ↔ ∃ c, i = .advance c ∧ EventDue c s ∧ s.video.inHblank = true ∧
      nextLine s = 160#32 ∧ s.video.vblankIRQEnabled = true) ∧
    (.irq .hblank ∈ t.outputs ↔ ∃ c, i = .advance c ∧ EventDue c s ∧ s.video.inHblank = false ∧
      s.video.hblankIRQEnabled = true) ∧
    (.irq .vcounter ∈ t.outputs ↔ ∃ c, i = .advance c ∧ EventDue c s ∧ s.video.inHblank = true ∧
      nextLine s = s.video.vcountTarget.setWidth 32 ∧ s.video.vcounterIRQEnabled = true)

/-- The DMA triggers have no enable: the Vblank trigger is emitted at every End-of-Hblank into line 160, the
Hblank trigger at every Start-of-Hblank on lines -1 to 159, and neither at any other time (that line -1 counts
as visible is the spec's own choice, 92_eei_decisions.md D15, log 22). -/
def Obligations.DmaTriggerSources : Prop :=
  ∀ (i : Instr) (s t : State), s.Inv → exec i s = .next t →
    (.dmaVblank ∈ t.outputs ↔ ∃ c, i = .advance c ∧ EventDue c s ∧ s.video.inHblank = true ∧
      nextLine s = 160#32) ∧
    (.dmaHblank ∈ t.outputs ↔ ∃ c, i = .advance c ∧ EventDue c s ∧ s.video.inHblank = false ∧
      -1 ≤ s.video.scanline.toInt ∧ s.video.scanline.toInt ≤ 159)

/-- Which renderer draws what, exactly: the attached renderer draws the line just entered when that line is
visible and the pacing answer is true, and finishes a frame at the entry into line 160 when the pacing answer
is true (that each use is a query of its own is the spec's own choice, 92_eei_decisions.md D14, log 21). -/
def Obligations.DrawAndFinishSources : Prop :=
  ∀ (i : Instr) (s t : State) (h : RendererHandle) (y : Word), exec i s = .next t →
    (.rDrawScanline h y ∈ t.outputs ↔ ∃ c, i = .advance c ∧ EventDue c s ∧
      s.video.inHblank = true ∧ h = s.renderer ∧ y = nextLine s ∧ y.toInt < 160 ∧
      s.pacingAnswer = true) ∧
    (.rFinishFrame h ∈ t.outputs ↔ ∃ c, i = .advance c ∧ EventDue c s ∧
      s.video.inHblank = true ∧ h = s.renderer ∧ nextLine s = 160#32 ∧ s.pacingAnswer = true)

/-- A target of 228 to 255 never matches: after an End-of-Hblank with such a target the flag is clear and no
vcounter interrupt is raised. -/
def Obligations.HighTargetsNeverMatch : Prop :=
  ∀ (s : State) (c : Word), s.Inv → s.live = true → s.video.inHblank = true → EventDue c s →
    228 ≤ s.video.vcountTarget.toNat →
      ∃ t, exec (.advance c) s = .next t ∧ t.video.vcounterMatch = false ∧
        .irq .vcounter ∉ t.outputs

/-- L, HI, VI and CI decide nothing: two states that differ only in them answer the same outputs and the
same result to every transaction, and then again differ only in them. -/
def Obligations.InertCountdownsDecideNothing : Prop :=
  ∀ (i : Instr) (s t s' : State), SameButInertCountdowns s t → exec i s = .next s' →
    ∃ t', exec i t = .next t' ∧ t'.outputs = s'.outputs ∧ t'.result = s'.result ∧
      SameButInertCountdowns s' t'

/-- The pacing collaborator's answers change no timing: two states that differ only in the answers to come
answer the same result and the same outputs but for drawn scanlines and finished frames, and then differ only
in the answers to come and in those outputs (that PACE_FRAME_POSTED and the number of queries are the same
whatever the answer is the spec's own choice, 92_eei_decisions.md D13, D14, log 20, log 21). -/
def Obligations.PacingChangesNoTiming : Prop :=
  ∀ (i : Instr) (s t s' : State), SameButPacing s t → exec i s = .next s' →
    ∃ t', exec i t = .next t' ∧ t'.result = s'.result ∧
      t'.outputs.filter (fun ev => !ev.isPaced) = s'.outputs.filter (fun ev => !ev.isPaced) ∧
      SameButPacing s'.begin t'.begin

/-- No transaction but POWER_ON and TEARDOWN touches a byte of a region, so what the attached renderer sees
while it handles an event is what the host left before the transaction, and what it finds after it
(92_eei_decisions.md D34). -/
def Obligations.TransactionsKeepRegionBytes : Prop :=
  ∀ (i : Instr) (s t : State), exec i s = .next t → i ≠ .powerOn → i ≠ .teardown →
    ∀ r off, t.regionByte r off = s.regionByte r off ∧
      ∀ ev ∈ t.outputs, ∀ b, rendererSees s ev r off = some b → b = t.regionByte r off

/-! ## Runs of ADVANCE -/

/-- No drift: two runs of ADVANCE from one settled state, neither of which exceeds a budget, with equal sums,
emit the same events in the same order and end in the same state (but for the last call's own outputs and
result). Both take the pacing answers from the same state, so the answers are equal. -/
def Obligations.NoDriftUnderFineStepping : Prop :=
  ∀ (s : State) (cs ds : List Word), s.Inv → s.live = true →
    WithinBudget cs s → WithinBudget ds s → elapsed cs = elapsed ds →
      ∃ t u evs, runAdvances cs s = some (t, evs) ∧ runAdvances ds s = some (u, evs) ∧
        t.begin = u.begin

/-- Where the machine stands n cycles after POWER_ON, under calls that respect the budget: line
n / 1232 - 1 (counted on from the pre-roll line, wrapping at 228), Hblank from cycle 1006 of the line on,
with the budget to the end of the phase (the first budget of 1006 and the pre-roll line's length rest on the
reset values of E, H and D, the spec's own choice, 92_eei_decisions.md D8, log 11). -/
def Obligations.PositionAfterElapsedCycles : Prop :=
  ∀ (s : State) (cs : List Word), s.live = true → s.video = Video.reset → WithinBudget cs s →
    ∃ t evs, runAdvances cs s = some (t, evs) ∧
      t.video.scanline.toInt =
        (if elapsed cs < 1232 then (-1 : Int) else ((elapsed cs / 1232 - 1) % 228 : Nat)) ∧
      t.video.inHblank = decide (1006 ≤ elapsed cs % 1232) ∧
      t.video.cyclesToNextEvent.toInt =
        (if elapsed cs % 1232 < 1006 then (1006 : Int) else 1232) - (elapsed cs % 1232 : Nat)

/-- One frame from the start of a line s: the scanlines entered are s + 1, ..., 227, 0, ..., s, each once and
in that order, and the run ends in the same phase with E = 1006. -/
def Obligations.FrameVisitsEveryLineOnce : Prop :=
  ∀ (s : State) (cs : List Word), s.Inv → s.live = true → s.video.inHblank = false →
    s.video.cyclesToNextEvent = 1006#32 → 0 ≤ s.video.scanline.toInt →
    WithinBudget cs s → elapsed cs = 280896 →
      linesEntered cs s =
        (List.range 228).map
          (fun k => BitVec.ofNat 32 ((s.video.scanline.toNat + 1 + k) % 228)) ∧
      ∃ t evs, runAdvances cs s = some (t, evs) ∧ t.video.inHblank = false ∧
        t.video.cyclesToNextEvent = 1006#32 ∧ t.video.scanline = s.video.scanline

/-- How often each event occurs in one frame from any settled state of lines 0 to 227: one Vblank DMA
trigger and one posted frame, 160 Hblank DMA triggers, 161 pacing queries, and each interrupt as often as its
source condition occurs while its enable is set (the posted frame and the number of queries are the spec's own
choices, 92_eei_decisions.md D13, D14, log 20, log 21). -/
def Obligations.FrameEventCounts : Prop :=
  ∀ (s : State) (cs : List Word), s.Inv → s.live = true → 0 ≤ s.video.scanline.toInt →
    WithinBudget cs s → elapsed cs = 280896 →
      ∃ t evs, runAdvances cs s = some (t, evs) ∧
        evs.count .dmaVblank = 1 ∧ evs.count .paceFramePosted = 1 ∧
        evs.count .dmaHblank = 160 ∧ evs.count .paceQuery = 161 ∧
        evs.count (.irq .vblank) = (if s.video.vblankIRQEnabled then 1 else 0) ∧
        evs.count (.irq .hblank) = (if s.video.hblankIRQEnabled then 228 else 0) ∧
        evs.count (.irq .vcounter) =
          if s.video.vcounterIRQEnabled ∧ s.video.vcountTarget.toNat < 228 then 1 else 0

/-- CI falls by one frame length per frame, modulo 2^32, while the vcounter enable is clear or the target is
228 or more, and no vcounter interrupt is raised (the width, and that the rebase covers CI, are the spec's own
choices, 92_eei_decisions.md D5, D9, log 14, log 19). -/
def Obligations.VcounterCountdownDeclines : Prop :=
  ∀ (s : State) (cs : List Word), s.Inv → s.live = true →
    (s.video.vcounterIRQEnabled = false ∨ 228 ≤ s.video.vcountTarget.toNat) →
    WithinBudget cs s → elapsed cs = 280896 →
      ∃ t evs, runAdvances cs s = some (t, evs) ∧
        t.video.cyclesToNextVcounterIRQ = s.video.cyclesToNextVcounterIRQ - 280896#32 ∧
        .irq .vcounter ∉ evs

/-- The vcounter scenario: a status write at the start of a line that sets the vcounter enable and a target
five lines on makes CI 7392; the interrupt is raised after exactly 6160 cycles, not earlier, and CI is then
282128 (the formula of CI is the spec's own choice, 92_eei_decisions.md D12, D16). -/
def Obligations.VcounterFiresFiveLinesOn : Prop :=
  ∀ (s : State) (v : Half), s.Inv → s.live = true → s.video.inHblank = false →
    s.video.cyclesToNextEvent = 1006#32 → s.video.scanline.toInt + 5 ≤ 227 →
    v.getLsbD 5 = true → ((v.toNat / 256 : Nat) : Int) = s.video.scanline.toInt + 5 →
      ∃ t, exec (.writeStatus v) s = .next t ∧
        t.video.cyclesToNextVcounterIRQ = 7392#32 ∧
        ∀ cs, WithinBudget cs t → elapsed cs ≤ 6160 →
          ∃ u evs, runAdvances cs t = some (u, evs) ∧
            (elapsed cs < 6160 → .irq .vcounter ∉ evs) ∧
            (elapsed cs = 6160 → .irq .vcounter ∈ evs ∧
              u.video.scanline.toInt = s.video.scanline.toInt + 5 ∧
              u.video.cyclesToNextVcounterIRQ = 282128#32)

/-! ## The status register -/

/-- WRITE_STATUS: the enables from bits 3, 4 and 5, the target from bits 15 to 8, CI recomputed when bit 5 is
set, and nothing else: no output, no result, every byte and every other field as before. The formula of CI and
the bits that take no part are the spec's own choices (92_eei_decisions.md D16, D17). -/
def Obligations.WriteStatusEffect : Prop :=
  ∀ (s : State) (v : Half), s.live = true →
    let target : BitVec 8 := BitVec.ofNat 8 (v.toNat / 256)
    let ci := s.video.cyclesToNextHblankStart + 226#32
      + (target.setWidth 32 - s.video.scanline) * 1232#32
    exec (.writeStatus v) s = .next { s with
      outputs := []
      result  := .noResult
      video   := { s.video with
        vblankIRQEnabled   := v.getLsbD 3
        hblankIRQEnabled   := v.getLsbD 4
        vcounterIRQEnabled := v.getLsbD 5
        vcountTarget       := target
        cyclesToNextVcounterIRQ :=
          if v.getLsbD 5 then
            if ci.toInt < s.video.cyclesToNextEvent.toInt then ci + 280896#32 else ci
          else s.video.cyclesToNextVcounterIRQ } }

/-- The closed forms of the recomputed CI at settled states, target T and scanline s: (T - s + 1) * 1232 in
Hdraw, plus a frame exactly when T < s; (T - s) * 1232 + 1458 in Hblank, plus a frame exactly when
T ≤ s - 2 (92_eei_decisions.md D16). -/
def Obligations.RecomputedVcounterClosedForms : Prop :=
  ∀ (s : State) (v : Half), s.Inv → s.live = true → v.getLsbD 5 = true →
    let target : Int := ((v.toNat / 256 : Nat) : Int)
    let line := s.video.scanline.toInt
    ∃ t, exec (.writeStatus v) s = .next t ∧
      t.video.cyclesToNextVcounterIRQ.toInt =
        if s.video.inHblank then
          (target - line) * 1232 + 1458 + (if target ≤ line - 2 then 280896 else 0)
        else (target - line + 1) * 1232 + (if target < line then 280896 else 0)

/-- The preserved mid-Hblank approximation: the same write in the Hblank of a line, for a target not before
it, names an instant exactly 1232 cycles later, measured from the start of the line, than in its Hdraw; the
base instant in Hblank is 1006 cycles after that start (the formula of CI is the spec's own choice,
92_eei_decisions.md D16, log 19). -/
def Obligations.HblankStatusWriteIsOneLineLater : Prop :=
  ∀ (s t : State) (v : Half), s.Inv → t.Inv → s.live = true → t.live = true →
    s.video.inHblank = false → t.video.inHblank = true → t.video.scanline = s.video.scanline →
    v.getLsbD 5 = true → s.video.scanline.toInt ≤ ((v.toNat / 256 : Nat) : Int) →
      ∃ s' t', exec (.writeStatus v) s = .next s' ∧ exec (.writeStatus v) t = .next t' ∧
        1006 + t'.video.cyclesToNextVcounterIRQ.toInt =
          s'.video.cyclesToNextVcounterIRQ.toInt + 1232

/-- What WRITE_STATUS does not do: it changes no scanline, flag, match, E, L, H, HI, VI, D or renderer and
emits nothing; whatever the target written, the match flag keeps its value and no vcounter interrupt is raised
by any transactions of the session until the next End-of-Hblank. -/
def Obligations.WriteStatusChangesNothingElse : Prop :=
  ∀ (s : State) (v : Half), s.live = true →
    ∃ t, exec (.writeStatus v) s = .next t ∧ t.outputs = [] ∧
      t.video.scanline = s.video.scanline ∧ t.video.inHblank = s.video.inHblank ∧
      t.video.inVblank = s.video.inVblank ∧ t.video.vcounterMatch = s.video.vcounterMatch ∧
      t.video.cyclesToNextEvent = s.video.cyclesToNextEvent ∧
      t.video.cyclesSinceLastHblankStart = s.video.cyclesSinceLastHblankStart ∧
      t.video.cyclesToNextHblankStart = s.video.cyclesToNextHblankStart ∧
      t.video.cyclesToNextHblankIRQ = s.video.cyclesToNextHblankIRQ ∧
      t.video.cyclesToNextVblankIRQ = s.video.cyclesToNextVblankIRQ ∧
      t.video.lastEventDiff = s.video.lastEventDiff ∧ t.renderer = s.renderer ∧
      ∀ is u evs, run is t = some (u, evs) → NoEndOfHblank is t → .powerOn ∉ is →
        u.video.vcounterMatch = s.video.vcounterMatch ∧ .irq .vcounter ∉ evs

/-- The bits of a status write that name no field, 0 to 2, 6 and 7, take no part
(92_eei_decisions.md D17, log 23). -/
def Obligations.IgnoredStatusBitsTakeNoPart : Prop :=
  ∀ (s : State) (v w : Half),
    v.getLsbD 3 = w.getLsbD 3 → v.getLsbD 4 = w.getLsbD 4 → v.getLsbD 5 = w.getLsbD 5 →
    v.toNat / 256 = w.toNat / 256 → exec (.writeStatus v) s = exec (.writeStatus w) s

/-- READ_STATUS answers the three flags as bits 0, 1 and 2, a value of 0 to 7, and changes nothing: so a
second read answers the same. -/
def Obligations.ReadStatusAnswersTheFlags : Prop :=
  ∀ s : State, s.live = true →
    ∃ v : Half, exec .readStatus s = .next { s with outputs := [], result := .statusValue v } ∧
      v.toNat = s.video.inVblank.toNat + 2 * s.video.inHblank.toNat
        + 4 * s.video.vcounterMatch.toNat

/-! ## The renderer -/

/-- With the dummy renderer attached, WRITE_VIDEO_REG to any address but the status register's answers the
value written, emits the one event, and changes nothing else. -/
def Obligations.DummyRendererAnswersTheValue : Prop :=
  ∀ (s : State) (a : Addr) (v : Half), s.live = true → a ≠ s.params.statusRegAddr →
    s.renderer = 0#32 →
      exec (.writeVideoReg a v) s = .next { s with
        outputs := [.rWriteReg 0#32 a v], result := .storedValue v }

/-- With a real renderer attached, WRITE_VIDEO_REG answers the next input, or a free value when no input is
fixed, and uses it up; nothing else changes (log 6). -/
def Obligations.RealRendererAnswersByInput : Prop :=
  ∀ (s : State) (a : Addr) (v : Half), s.live = true → a ≠ s.params.statusRegAddr →
    s.renderer ≠ 0#32 →
      exec (.writeVideoReg a v) s = .next
        (match s.rendererAnswers with
        | answer :: rest =>
          { s with
            outputs := [.rWriteReg s.renderer a v], result := .storedValue answer
            rendererAnswers := rest }
        | [] =>
          { s with
            outputs := [.rWriteReg s.renderer a v]
            result := .storedValue (Config.freeRendererAnswer s.rendererDraws)
            rendererDraws := s.rendererDraws + 1 })

/-- ATTACH_RENDERER, for every handle, the attached one and the dummy included: one matched pair of
deinitialisation and initialisation, the renderer swapped, and nothing else changed
(92_eei_decisions.md D33). -/
def Obligations.AttachRunsTheProtocol : Prop :=
  ∀ (s : State) (h : RendererHandle), s.live = true →
    exec (.attachRenderer h) s = .next { s with
      renderer := h
      outputs  := [.rDeinit s.renderer, .rBind h, .rInit h]
      result   := .noResult }

/-- For every renderer but the dummy: a transaction initialises it at most once, exactly when it attaches it,
and deinitialises it at most once, exactly when it detaches it, teardown included; and initialisations less
deinitialisations are the change in whether it is the attached one. Attaching the attached renderer again does
both (92_eei_decisions.md D33, log 28). -/
def Obligations.InitAndDeinitAreMatched : Prop :=
  ∀ (i : Instr) (s t : State) (h : RendererHandle), s.Inv → exec i s = .next t → h ≠ 0#32 →
    t.outputs.count (.rInit h) ≤ 1 ∧ t.outputs.count (.rDeinit h) ≤ 1 ∧
    (t.outputs.count (.rInit h) = 1 ↔ i = .attachRenderer h) ∧
    (t.outputs.count (.rDeinit h) = 1 ↔
      s.renderer = h ∧ ((∃ k, i = .attachRenderer k) ∨ i = .teardown)) ∧
    (t.outputs.count (.rInit h) : Int) - t.outputs.count (.rDeinit h) =
      (if t.renderer = h then 1 else 0) - (if s.renderer = h then 1 else 0)

/-! ## The lifecycle -/

/-- POWER_ON on a block that is not live: every field of the table of reset values, every region byte zero,
no output; parameters and the host's side as before. The values the source does not give are the spec's own
choices (92_eei_decisions.md D7, D8, D25, log 11). -/
def Obligations.PowerOnGivesTheResetState : Prop :=
  ∀ s : State, s.live = false →
    ∃ t, exec .powerOn s = .next t ∧
      t.video =
        { scanline := BitVec.ofInt 32 (-1), inHblank := false, inVblank := false,
          vcounterMatch := false, vblankIRQEnabled := false, hblankIRQEnabled := false,
          vcounterIRQEnabled := false, vcountTarget := 0#8, cyclesToNextEvent := 1006#32,
          cyclesSinceLastHblankStart := 0#32, cyclesToNextHblankStart := 1006#32,
          cyclesToNextHblankIRQ := 0#32, cyclesToNextVblankIRQ := 0#32,
          cyclesToNextVcounterIRQ := 0#32, lastEventDiff := 1006#32 } ∧
      t.renderer = 0#32 ∧ t.live = true ∧ (∀ r off, t.regionByte r off = 0#8) ∧
      t.outputs = [] ∧ t.result = .noResult ∧ t.params = s.params ∧ t.requests = s.requests ∧
      t.pacingAnswers = s.pacingAnswers ∧ t.pacingDraws = s.pacingDraws ∧
      t.rendererAnswers = s.rendererAnswers ∧ t.rendererDraws = s.rendererDraws

/-- The state after reset is the state after POWER_ON: its fields, a status value of zero, a first budget of
1006, and memory of zeros (the flags and the first budget are the spec's own choices, 92_eei_decisions.md D7,
D8, log 11; the state before the first POWER_ON, whose fields nothing reads, is the model's, log 12). -/
def Obligations.ResetIsPowerOn : Prop :=
  exec .powerOn State.unpowered = .next State.reset ∧
  exec .readStatus State.reset =
    .next { State.reset with result := .statusValue 0x0000#16 } ∧
  exec (.advance 0#32) State.reset = .next { State.reset with result := .budget 1006#32 } ∧
  ∀ r off, State.reset.regionByte r off = 0#8

/-- TEARDOWN on a live block: an implicit detach to the dummy renderer, the regions released, the block not
live; the parameters and the host's side as before. That the events are emitted with the dummy already
attached too is the spec's own choice (92_eei_decisions.md D37, log 25); that the video fields keep their
values, unobserved, is the model's (log 12). -/
def Obligations.TeardownDetachesAndReleases : Prop :=
  ∀ s : State, s.live = true →
    exec .teardown s = .next { s with
      renderer := 0#32
      live     := false
      vram     := []
      palette  := []
      oam      := []
      outputs  := [.rDeinit s.renderer, .rBind 0#32, .rInit 0#32]
      result   := .noResult }

/-- Nothing of a session survives: POWER_ON after TEARDOWN yields, from any live state, the block that a
first POWER_ON yields with the same parameters. -/
def Obligations.NothingSurvivesTeardown : Prop :=
  ∀ s u : State, s.live = true → u.live = false → u.params = s.params →
    ∃ t t' u', exec .teardown s = .next t ∧ exec .powerOn t = .next t' ∧
      exec .powerOn u = .next u' ∧ SameBlock t' u' ∧ t'.outputs = u'.outputs ∧
      t'.result = u'.result
end

