-- ==== Sys2Proof/Laws/Decode.lean ====
section
/-! SUPPORT. Laws of decoding and encoding: the number an encoded word stands for, and what the decoder
reads from a word. -/

namespace Sys2Proof

@[simp] theorem requireZero_eq_instr (mbz : Nat) (i j : Instr) :
    requireZero mbz i = .instr j ↔ mbz = 0 ∧ i = j := by
  unfold requireZero
  split <;> simp_all

@[simp] theorem requireZero_eq_invalid (mbz : Nat) (i : Instr) (r : InvalidReason) :
    requireZero mbz i = .invalid r ↔ mbz ≠ 0 ∧ r = .mbzNonZero := by
  unfold requireZero
  split <;> simp_all [eq_comm]

/-- The number a command word stands for: op, then operands (30_encoding.md R70). -/
def Instr.wordNat : Instr → Nat
  | .advance c         => c.toNat
  | .writeStatus v     => 1 * 2 ^ 61 + v.toNat
  | .readStatus        => 2 * 2 ^ 61
  | .writeVideoReg a v => 3 * 2 ^ 61 + a.toNat * 2 ^ 16 + v.toNat
  | .attachRenderer h  => 4 * 2 ^ 61 + h.toNat
  | .powerOn           => 5 * 2 ^ 61
  | .teardown          => 6 * 2 ^ 61

/-- The op bits lie above the operand bits, so joining them adds them. -/
theorem encode_toNat (i : Instr) : (encode i).toNat = i.wordNat := by
  cases i with
  | advance c => simp [encode, Instr.wordNat]; omega
  | writeStatus v =>
    have h := Nat.two_pow_add_eq_or_of_lt (i := 61) (b := v.toNat) (by omega) 1
    simp only [encode, Instr.wordNat, BitVec.toNat_or, BitVec.toNat_setWidth, BitVec.toNat_ofNat]
    rw [Nat.mod_eq_of_lt (show v.toNat < 2 ^ 64 by omega)]
    simpa using h.symm
  | readStatus => rfl
  | writeVideoReg a v =>
    have h := Nat.two_pow_add_eq_or_of_lt (i := 61) (b := a.toNat * 2 ^ 16 + v.toNat) (by omega) 3
    have k := Nat.two_pow_add_eq_or_of_lt (i := 16) (b := v.toNat) (by omega) a.toNat
    have e : a.toNat <<< 16 % 2 ^ 64 = 2 ^ 16 * a.toNat := by
      rw [Nat.shiftLeft_eq]; omega
    simp only [encode, Instr.wordNat, BitVec.toNat_or, BitVec.toNat_setWidth, BitVec.toNat_ofNat,
      BitVec.toNat_shiftLeft]
    rw [Nat.mod_eq_of_lt (show v.toNat < 2 ^ 64 by omega),
      Nat.mod_eq_of_lt (show a.toNat < 2 ^ 64 by omega), e, Nat.or_assoc, ← k,
      Nat.mul_comm (2 ^ 16) a.toNat, Nat.add_assoc]
    simpa using h.symm
  | attachRenderer r =>
    have h := Nat.two_pow_add_eq_or_of_lt (i := 61) (b := r.toNat) (by omega) 4
    simp only [encode, Instr.wordNat, BitVec.toNat_or, BitVec.toNat_setWidth, BitVec.toNat_ofNat]
    rw [Nat.mod_eq_of_lt (show r.toNat < 2 ^ 64 by omega)]
    simpa using h.symm
  | powerOn => rfl
  | teardown => rfl

theorem field_op_lt (w : CommandWord) : field w 63 61 < 8 := Nat.mod_lt _ (by decide)

/-- The op of a word, by case: what the decoder answers (30_encoding.md R70). -/
theorem decode_of_op {w : CommandWord} {k : Nat} (h : field w 63 61 = k) :
    decode w =
      if k = 0 then requireZero (field w 60 31) (.advance (BitVec.ofNat 32 (field w 30 0)))
      else if k = 1 then requireZero (field w 60 16) (.writeStatus (BitVec.ofNat 16 (field w 15 0)))
      else if k = 2 then requireZero (field w 60 0) .readStatus
      else if k = 3 then requireZero (field w 60 48)
        (.writeVideoReg (BitVec.ofNat 32 (field w 47 16)) (BitVec.ofNat 16 (field w 15 0)))
      else if k = 4 then requireZero (field w 60 32) (.attachRenderer (BitVec.ofNat 32 (field w 31 0)))
      else if k = 5 then requireZero (field w 60 0) .powerOn
      else if k = 6 then requireZero (field w 60 0) .teardown
      else .invalid .reservedOp := by
  subst h; rfl

end Sys2Proof
end

