-- ==== Sys2Proof/Laws/State.lean ====
section
/-! SUPPORT. Laws of the state's updates: what each shared operation leaves of each field. -/

namespace Sys2Proof.Machine

/-! ### `State.begin` -/

@[simp] theorem State.begin_video (s : State) : s.begin.video = s.video := rfl
@[simp] theorem State.begin_renderer (s : State) : s.begin.renderer = s.renderer := rfl
@[simp] theorem State.begin_live (s : State) : s.begin.live = s.live := rfl
@[simp] theorem State.begin_vram (s : State) : s.begin.vram = s.vram := rfl
@[simp] theorem State.begin_palette (s : State) : s.begin.palette = s.palette := rfl
@[simp] theorem State.begin_oam (s : State) : s.begin.oam = s.oam := rfl
@[simp] theorem State.begin_params (s : State) : s.begin.params = s.params := rfl
@[simp] theorem State.begin_outputs (s : State) : s.begin.outputs = [] := rfl
@[simp] theorem State.begin_result (s : State) : s.begin.result = .noResult := rfl
@[simp] theorem State.begin_requests (s : State) : s.begin.requests = s.requests := rfl
@[simp] theorem State.begin_pacingAnswers (s : State) : s.begin.pacingAnswers = s.pacingAnswers := rfl
@[simp] theorem State.begin_pacingDraws (s : State) : s.begin.pacingDraws = s.pacingDraws := rfl
@[simp] theorem State.begin_rendererAnswers (s : State) :
    s.begin.rendererAnswers = s.rendererAnswers := rfl
@[simp] theorem State.begin_rendererDraws (s : State) : s.begin.rendererDraws = s.rendererDraws := rfl

/-! ### `State.emit` -/

@[simp] theorem State.emit_video (s : State) (ev : OutputEvent) : (s.emit ev).video = s.video := rfl
@[simp] theorem State.emit_renderer (s : State) (ev : OutputEvent) :
    (s.emit ev).renderer = s.renderer := rfl
@[simp] theorem State.emit_live (s : State) (ev : OutputEvent) : (s.emit ev).live = s.live := rfl
@[simp] theorem State.emit_vram (s : State) (ev : OutputEvent) : (s.emit ev).vram = s.vram := rfl
@[simp] theorem State.emit_palette (s : State) (ev : OutputEvent) :
    (s.emit ev).palette = s.palette := rfl
@[simp] theorem State.emit_oam (s : State) (ev : OutputEvent) : (s.emit ev).oam = s.oam := rfl
@[simp] theorem State.emit_params (s : State) (ev : OutputEvent) : (s.emit ev).params = s.params := rfl
@[simp] theorem State.emit_outputs (s : State) (ev : OutputEvent) :
    (s.emit ev).outputs = s.outputs ++ [ev] := rfl
@[simp] theorem State.emit_result (s : State) (ev : OutputEvent) : (s.emit ev).result = s.result := rfl
@[simp] theorem State.emit_requests (s : State) (ev : OutputEvent) :
    (s.emit ev).requests = s.requests := rfl
@[simp] theorem State.emit_pacingAnswers (s : State) (ev : OutputEvent) :
    (s.emit ev).pacingAnswers = s.pacingAnswers := rfl
@[simp] theorem State.emit_pacingDraws (s : State) (ev : OutputEvent) :
    (s.emit ev).pacingDraws = s.pacingDraws := rfl
@[simp] theorem State.emit_rendererAnswers (s : State) (ev : OutputEvent) :
    (s.emit ev).rendererAnswers = s.rendererAnswers := rfl
@[simp] theorem State.emit_rendererDraws (s : State) (ev : OutputEvent) :
    (s.emit ev).rendererDraws = s.rendererDraws := rfl

/-! ### `State.emitIf` -/

@[simp] theorem State.emitIf_video (s : State) (c : Bool) (ev : OutputEvent) :
    (s.emitIf c ev).video = s.video := by cases c <;> rfl
@[simp] theorem State.emitIf_renderer (s : State) (c : Bool) (ev : OutputEvent) :
    (s.emitIf c ev).renderer = s.renderer := by cases c <;> rfl
@[simp] theorem State.emitIf_live (s : State) (c : Bool) (ev : OutputEvent) :
    (s.emitIf c ev).live = s.live := by cases c <;> rfl
@[simp] theorem State.emitIf_vram (s : State) (c : Bool) (ev : OutputEvent) :
    (s.emitIf c ev).vram = s.vram := by cases c <;> rfl
@[simp] theorem State.emitIf_palette (s : State) (c : Bool) (ev : OutputEvent) :
    (s.emitIf c ev).palette = s.palette := by cases c <;> rfl
@[simp] theorem State.emitIf_oam (s : State) (c : Bool) (ev : OutputEvent) :
    (s.emitIf c ev).oam = s.oam := by cases c <;> rfl
@[simp] theorem State.emitIf_params (s : State) (c : Bool) (ev : OutputEvent) :
    (s.emitIf c ev).params = s.params := by cases c <;> rfl
@[simp] theorem State.emitIf_result (s : State) (c : Bool) (ev : OutputEvent) :
    (s.emitIf c ev).result = s.result := by cases c <;> rfl
@[simp] theorem State.emitIf_requests (s : State) (c : Bool) (ev : OutputEvent) :
    (s.emitIf c ev).requests = s.requests := by cases c <;> rfl
@[simp] theorem State.emitIf_pacingAnswers (s : State) (c : Bool) (ev : OutputEvent) :
    (s.emitIf c ev).pacingAnswers = s.pacingAnswers := by cases c <;> rfl
@[simp] theorem State.emitIf_pacingDraws (s : State) (c : Bool) (ev : OutputEvent) :
    (s.emitIf c ev).pacingDraws = s.pacingDraws := by cases c <;> rfl
@[simp] theorem State.emitIf_rendererAnswers (s : State) (c : Bool) (ev : OutputEvent) :
    (s.emitIf c ev).rendererAnswers = s.rendererAnswers := by cases c <;> rfl
@[simp] theorem State.emitIf_rendererDraws (s : State) (c : Bool) (ev : OutputEvent) :
    (s.emitIf c ev).rendererDraws = s.rendererDraws := by cases c <;> rfl

/-! ### `State.raiseInterrupt` -/

@[simp] theorem State.raiseInterrupt_video (s : State) (c : Bool) (k : IrqKind) :
    (s.raiseInterrupt c k).video = s.video := by cases c <;> rfl
@[simp] theorem State.raiseInterrupt_renderer (s : State) (c : Bool) (k : IrqKind) :
    (s.raiseInterrupt c k).renderer = s.renderer := by cases c <;> rfl
@[simp] theorem State.raiseInterrupt_live (s : State) (c : Bool) (k : IrqKind) :
    (s.raiseInterrupt c k).live = s.live := by cases c <;> rfl
@[simp] theorem State.raiseInterrupt_vram (s : State) (c : Bool) (k : IrqKind) :
    (s.raiseInterrupt c k).vram = s.vram := by cases c <;> rfl
@[simp] theorem State.raiseInterrupt_palette (s : State) (c : Bool) (k : IrqKind) :
    (s.raiseInterrupt c k).palette = s.palette := by cases c <;> rfl
@[simp] theorem State.raiseInterrupt_oam (s : State) (c : Bool) (k : IrqKind) :
    (s.raiseInterrupt c k).oam = s.oam := by cases c <;> rfl
@[simp] theorem State.raiseInterrupt_params (s : State) (c : Bool) (k : IrqKind) :
    (s.raiseInterrupt c k).params = s.params := by cases c <;> rfl
@[simp] theorem State.raiseInterrupt_result (s : State) (c : Bool) (k : IrqKind) :
    (s.raiseInterrupt c k).result = s.result := by cases c <;> rfl
@[simp] theorem State.raiseInterrupt_requests (s : State) (c : Bool) (k : IrqKind) :
    (s.raiseInterrupt c k).requests = s.requests := by cases c <;> rfl
@[simp] theorem State.raiseInterrupt_pacingAnswers (s : State) (c : Bool) (k : IrqKind) :
    (s.raiseInterrupt c k).pacingAnswers = s.pacingAnswers := by cases c <;> rfl
@[simp] theorem State.raiseInterrupt_pacingDraws (s : State) (c : Bool) (k : IrqKind) :
    (s.raiseInterrupt c k).pacingDraws = s.pacingDraws := by cases c <;> rfl
@[simp] theorem State.raiseInterrupt_rendererAnswers (s : State) (c : Bool) (k : IrqKind) :
    (s.raiseInterrupt c k).rendererAnswers = s.rendererAnswers := by cases c <;> rfl
@[simp] theorem State.raiseInterrupt_rendererDraws (s : State) (c : Bool) (k : IrqKind) :
    (s.raiseInterrupt c k).rendererDraws = s.rendererDraws := by cases c <;> rfl

/-! ### `State.answer` -/

@[simp] theorem State.answer_video (s : State) (r : Result) : (s.answer r).video = s.video := rfl
@[simp] theorem State.answer_renderer (s : State) (r : Result) :
    (s.answer r).renderer = s.renderer := rfl
@[simp] theorem State.answer_live (s : State) (r : Result) : (s.answer r).live = s.live := rfl
@[simp] theorem State.answer_vram (s : State) (r : Result) : (s.answer r).vram = s.vram := rfl
@[simp] theorem State.answer_palette (s : State) (r : Result) : (s.answer r).palette = s.palette := rfl
@[simp] theorem State.answer_oam (s : State) (r : Result) : (s.answer r).oam = s.oam := rfl
@[simp] theorem State.answer_params (s : State) (r : Result) : (s.answer r).params = s.params := rfl
@[simp] theorem State.answer_outputs (s : State) (r : Result) : (s.answer r).outputs = s.outputs := rfl
@[simp] theorem State.answer_result (s : State) (r : Result) : (s.answer r).result = r := rfl
@[simp] theorem State.answer_requests (s : State) (r : Result) :
    (s.answer r).requests = s.requests := rfl
@[simp] theorem State.answer_pacingAnswers (s : State) (r : Result) :
    (s.answer r).pacingAnswers = s.pacingAnswers := rfl
@[simp] theorem State.answer_pacingDraws (s : State) (r : Result) :
    (s.answer r).pacingDraws = s.pacingDraws := rfl
@[simp] theorem State.answer_rendererAnswers (s : State) (r : Result) :
    (s.answer r).rendererAnswers = s.rendererAnswers := rfl
@[simp] theorem State.answer_rendererDraws (s : State) (r : Result) :
    (s.answer r).rendererDraws = s.rendererDraws := rfl

/-! ### `State.takePacingAnswer` -/

@[simp] theorem State.takePacingAnswer_video (s : State) :
    s.takePacingAnswer.video = s.video := by unfold State.takePacingAnswer; split <;> rfl
@[simp] theorem State.takePacingAnswer_renderer (s : State) :
    s.takePacingAnswer.renderer = s.renderer := by unfold State.takePacingAnswer; split <;> rfl
@[simp] theorem State.takePacingAnswer_live (s : State) :
    s.takePacingAnswer.live = s.live := by unfold State.takePacingAnswer; split <;> rfl
@[simp] theorem State.takePacingAnswer_vram (s : State) :
    s.takePacingAnswer.vram = s.vram := by unfold State.takePacingAnswer; split <;> rfl
@[simp] theorem State.takePacingAnswer_palette (s : State) :
    s.takePacingAnswer.palette = s.palette := by unfold State.takePacingAnswer; split <;> rfl
@[simp] theorem State.takePacingAnswer_oam (s : State) :
    s.takePacingAnswer.oam = s.oam := by unfold State.takePacingAnswer; split <;> rfl
@[simp] theorem State.takePacingAnswer_params (s : State) :
    s.takePacingAnswer.params = s.params := by unfold State.takePacingAnswer; split <;> rfl
@[simp] theorem State.takePacingAnswer_outputs (s : State) :
    s.takePacingAnswer.outputs = s.outputs := by unfold State.takePacingAnswer; split <;> rfl
@[simp] theorem State.takePacingAnswer_result (s : State) :
    s.takePacingAnswer.result = s.result := by unfold State.takePacingAnswer; split <;> rfl
@[simp] theorem State.takePacingAnswer_requests (s : State) :
    s.takePacingAnswer.requests = s.requests := by unfold State.takePacingAnswer; split <;> rfl
@[simp] theorem State.takePacingAnswer_rendererAnswers (s : State) :
    s.takePacingAnswer.rendererAnswers = s.rendererAnswers := by unfold State.takePacingAnswer; split <;> rfl
@[simp] theorem State.takePacingAnswer_rendererDraws (s : State) :
    s.takePacingAnswer.rendererDraws = s.rendererDraws := by unfold State.takePacingAnswer; split <;> rfl

/-! ### `State.emitIfFrameActive` -/

@[simp] theorem State.emitIfFrameActive_video (s : State) (ev : OutputEvent) :
    (s.emitIfFrameActive ev).video = s.video := by simp [State.emitIfFrameActive]
@[simp] theorem State.emitIfFrameActive_renderer (s : State) (ev : OutputEvent) :
    (s.emitIfFrameActive ev).renderer = s.renderer := by simp [State.emitIfFrameActive]
@[simp] theorem State.emitIfFrameActive_live (s : State) (ev : OutputEvent) :
    (s.emitIfFrameActive ev).live = s.live := by simp [State.emitIfFrameActive]
@[simp] theorem State.emitIfFrameActive_vram (s : State) (ev : OutputEvent) :
    (s.emitIfFrameActive ev).vram = s.vram := by simp [State.emitIfFrameActive]
@[simp] theorem State.emitIfFrameActive_palette (s : State) (ev : OutputEvent) :
    (s.emitIfFrameActive ev).palette = s.palette := by simp [State.emitIfFrameActive]
@[simp] theorem State.emitIfFrameActive_oam (s : State) (ev : OutputEvent) :
    (s.emitIfFrameActive ev).oam = s.oam := by simp [State.emitIfFrameActive]
@[simp] theorem State.emitIfFrameActive_params (s : State) (ev : OutputEvent) :
    (s.emitIfFrameActive ev).params = s.params := by simp [State.emitIfFrameActive]
@[simp] theorem State.emitIfFrameActive_result (s : State) (ev : OutputEvent) :
    (s.emitIfFrameActive ev).result = s.result := by simp [State.emitIfFrameActive]
@[simp] theorem State.emitIfFrameActive_requests (s : State) (ev : OutputEvent) :
    (s.emitIfFrameActive ev).requests = s.requests := by simp [State.emitIfFrameActive]
@[simp] theorem State.emitIfFrameActive_rendererAnswers (s : State) (ev : OutputEvent) :
    (s.emitIfFrameActive ev).rendererAnswers = s.rendererAnswers := by simp [State.emitIfFrameActive]
@[simp] theorem State.emitIfFrameActive_rendererDraws (s : State) (ev : OutputEvent) :
    (s.emitIfFrameActive ev).rendererDraws = s.rendererDraws := by simp [State.emitIfFrameActive]

/-! ### `State.takeRegisterAnswer` -/

@[simp] theorem State.takeRegisterAnswer_video (s : State) (h : RendererHandle) :
    (s.takeRegisterAnswer h).video = s.video := by
  unfold State.takeRegisterAnswer; split; · rfl
  · split <;> rfl
@[simp] theorem State.takeRegisterAnswer_renderer (s : State) (h : RendererHandle) :
    (s.takeRegisterAnswer h).renderer = s.renderer := by
  unfold State.takeRegisterAnswer; split; · rfl
  · split <;> rfl
@[simp] theorem State.takeRegisterAnswer_live (s : State) (h : RendererHandle) :
    (s.takeRegisterAnswer h).live = s.live := by
  unfold State.takeRegisterAnswer; split; · rfl
  · split <;> rfl
@[simp] theorem State.takeRegisterAnswer_vram (s : State) (h : RendererHandle) :
    (s.takeRegisterAnswer h).vram = s.vram := by
  unfold State.takeRegisterAnswer; split; · rfl
  · split <;> rfl
@[simp] theorem State.takeRegisterAnswer_palette (s : State) (h : RendererHandle) :
    (s.takeRegisterAnswer h).palette = s.palette := by
  unfold State.takeRegisterAnswer; split; · rfl
  · split <;> rfl
@[simp] theorem State.takeRegisterAnswer_oam (s : State) (h : RendererHandle) :
    (s.takeRegisterAnswer h).oam = s.oam := by
  unfold State.takeRegisterAnswer; split; · rfl
  · split <;> rfl
@[simp] theorem State.takeRegisterAnswer_params (s : State) (h : RendererHandle) :
    (s.takeRegisterAnswer h).params = s.params := by
  unfold State.takeRegisterAnswer; split; · rfl
  · split <;> rfl
@[simp] theorem State.takeRegisterAnswer_outputs (s : State) (h : RendererHandle) :
    (s.takeRegisterAnswer h).outputs = s.outputs := by
  unfold State.takeRegisterAnswer; split; · rfl
  · split <;> rfl
@[simp] theorem State.takeRegisterAnswer_result (s : State) (h : RendererHandle) :
    (s.takeRegisterAnswer h).result = s.result := by
  unfold State.takeRegisterAnswer; split; · rfl
  · split <;> rfl
@[simp] theorem State.takeRegisterAnswer_requests (s : State) (h : RendererHandle) :
    (s.takeRegisterAnswer h).requests = s.requests := by
  unfold State.takeRegisterAnswer; split; · rfl
  · split <;> rfl
@[simp] theorem State.takeRegisterAnswer_pacingAnswers (s : State) (h : RendererHandle) :
    (s.takeRegisterAnswer h).pacingAnswers = s.pacingAnswers := by
  unfold State.takeRegisterAnswer; split; · rfl
  · split <;> rfl
@[simp] theorem State.takeRegisterAnswer_pacingDraws (s : State) (h : RendererHandle) :
    (s.takeRegisterAnswer h).pacingDraws = s.pacingDraws := by
  unfold State.takeRegisterAnswer; split; · rfl
  · split <;> rfl

/-! ### `State.associate` -/

@[simp] theorem State.associate_video (s : State) (h : RendererHandle) :
    (s.associate h).video = s.video := rfl
@[simp] theorem State.associate_renderer (s : State) (h : RendererHandle) :
    (s.associate h).renderer = h := rfl
@[simp] theorem State.associate_live (s : State) (h : RendererHandle) :
    (s.associate h).live = s.live := rfl
@[simp] theorem State.associate_vram (s : State) (h : RendererHandle) :
    (s.associate h).vram = s.vram := rfl
@[simp] theorem State.associate_palette (s : State) (h : RendererHandle) :
    (s.associate h).palette = s.palette := rfl
@[simp] theorem State.associate_oam (s : State) (h : RendererHandle) :
    (s.associate h).oam = s.oam := rfl
@[simp] theorem State.associate_params (s : State) (h : RendererHandle) :
    (s.associate h).params = s.params := rfl
@[simp] theorem State.associate_outputs (s : State) (h : RendererHandle) :
    (s.associate h).outputs = s.outputs ++ [.rDeinit s.renderer, .rBind h, .rInit h] := by simp [State.associate, State.emit]
@[simp] theorem State.associate_result (s : State) (h : RendererHandle) :
    (s.associate h).result = s.result := rfl
@[simp] theorem State.associate_requests (s : State) (h : RendererHandle) :
    (s.associate h).requests = s.requests := rfl
@[simp] theorem State.associate_pacingAnswers (s : State) (h : RendererHandle) :
    (s.associate h).pacingAnswers = s.pacingAnswers := rfl
@[simp] theorem State.associate_pacingDraws (s : State) (h : RendererHandle) :
    (s.associate h).pacingDraws = s.pacingDraws := rfl
@[simp] theorem State.associate_rendererAnswers (s : State) (h : RendererHandle) :
    (s.associate h).rendererAnswers = s.rendererAnswers := rfl
@[simp] theorem State.associate_rendererDraws (s : State) (h : RendererHandle) :
    (s.associate h).rendererDraws = s.rendererDraws := rfl

/-! ### `State.clearRegions` -/

@[simp] theorem State.clearRegions_video (s : State) : s.clearRegions.video = s.video := rfl
@[simp] theorem State.clearRegions_renderer (s : State) : s.clearRegions.renderer = s.renderer := rfl
@[simp] theorem State.clearRegions_live (s : State) : s.clearRegions.live = s.live := rfl
@[simp] theorem State.clearRegions_vram (s : State) : s.clearRegions.vram = [] := rfl
@[simp] theorem State.clearRegions_palette (s : State) : s.clearRegions.palette = [] := rfl
@[simp] theorem State.clearRegions_oam (s : State) : s.clearRegions.oam = [] := rfl
@[simp] theorem State.clearRegions_params (s : State) : s.clearRegions.params = s.params := rfl
@[simp] theorem State.clearRegions_outputs (s : State) : s.clearRegions.outputs = s.outputs := rfl
@[simp] theorem State.clearRegions_result (s : State) : s.clearRegions.result = s.result := rfl
@[simp] theorem State.clearRegions_requests (s : State) : s.clearRegions.requests = s.requests := rfl
@[simp] theorem State.clearRegions_pacingAnswers (s : State) :
    s.clearRegions.pacingAnswers = s.pacingAnswers := rfl
@[simp] theorem State.clearRegions_pacingDraws (s : State) :
    s.clearRegions.pacingDraws = s.pacingDraws := rfl
@[simp] theorem State.clearRegions_rendererAnswers (s : State) :
    s.clearRegions.rendererAnswers = s.rendererAnswers := rfl
@[simp] theorem State.clearRegions_rendererDraws (s : State) :
    s.clearRegions.rendererDraws = s.rendererDraws := rfl

/-! ### `State.setRegion` -/

@[simp] theorem State.setRegion_video (s : State) (r : Region) (m : Memory) :
    (s.setRegion r m).video = s.video := by cases r <;> rfl
@[simp] theorem State.setRegion_renderer (s : State) (r : Region) (m : Memory) :
    (s.setRegion r m).renderer = s.renderer := by cases r <;> rfl
@[simp] theorem State.setRegion_live (s : State) (r : Region) (m : Memory) :
    (s.setRegion r m).live = s.live := by cases r <;> rfl
@[simp] theorem State.setRegion_params (s : State) (r : Region) (m : Memory) :
    (s.setRegion r m).params = s.params := by cases r <;> rfl
@[simp] theorem State.setRegion_outputs (s : State) (r : Region) (m : Memory) :
    (s.setRegion r m).outputs = s.outputs := by cases r <;> rfl
@[simp] theorem State.setRegion_result (s : State) (r : Region) (m : Memory) :
    (s.setRegion r m).result = s.result := by cases r <;> rfl
@[simp] theorem State.setRegion_requests (s : State) (r : Region) (m : Memory) :
    (s.setRegion r m).requests = s.requests := by cases r <;> rfl
@[simp] theorem State.setRegion_pacingAnswers (s : State) (r : Region) (m : Memory) :
    (s.setRegion r m).pacingAnswers = s.pacingAnswers := by cases r <;> rfl
@[simp] theorem State.setRegion_pacingDraws (s : State) (r : Region) (m : Memory) :
    (s.setRegion r m).pacingDraws = s.pacingDraws := by cases r <;> rfl
@[simp] theorem State.setRegion_rendererAnswers (s : State) (r : Region) (m : Memory) :
    (s.setRegion r m).rendererAnswers = s.rendererAnswers := by cases r <;> rfl
@[simp] theorem State.setRegion_rendererDraws (s : State) (r : Region) (m : Memory) :
    (s.setRegion r m).rendererDraws = s.rendererDraws := by cases r <;> rfl

/-! ### The fields an operation computes -/

@[simp] theorem State.emitIf_outputs (s : State) (c : Bool) (ev : OutputEvent) :
    (s.emitIf c ev).outputs = s.outputs ++ if c then [ev] else [] := by
  cases c <;> simp [State.emitIf]

@[simp] theorem State.raiseInterrupt_outputs (s : State) (c : Bool) (k : IrqKind) :
    (s.raiseInterrupt c k).outputs = s.outputs ++ if c then [.irq k] else [] := by
  simp [State.raiseInterrupt]

@[simp] theorem State.emitIfFrameActive_outputs (s : State) (ev : OutputEvent) :
    (s.emitIfFrameActive ev).outputs =
      s.outputs ++ .paceQuery :: if s.pacingAnswer then [ev] else [] := by
  simp [State.emitIfFrameActive]

@[simp] theorem State.emitIfFrameActive_pacingAnswers (s : State) (ev : OutputEvent) :
    (s.emitIfFrameActive ev).pacingAnswers = s.pacingAnswers.tail := by
  unfold State.emitIfFrameActive State.takePacingAnswer
  cases h : s.pacingAnswers <;> simp [h]

@[simp] theorem State.emitIfFrameActive_pacingDraws (s : State) (ev : OutputEvent) :
    (s.emitIfFrameActive ev).pacingDraws =
      if s.pacingAnswers = [] then s.pacingDraws + 1 else s.pacingDraws := by
  unfold State.emitIfFrameActive State.takePacingAnswer
  cases h : s.pacingAnswers <;> simp [h]

/-! ### Regions -/

/-- Two states with the same three regions have the same region under every name. -/
theorem State.region_congr {s t : State} (hv : t.vram = s.vram) (hp : t.palette = s.palette)
    (ho : t.oam = s.oam) (r : Region) : t.region r = s.region r := by
  cases r <;> assumption

@[simp] theorem State.setRegion_region (s : State) (r : Region) (m : Memory) :
    (s.setRegion r m).region r = m := by
  cases r <;> rfl

theorem State.setRegion_region_ne (s : State) {r q : Region} (m : Memory) (h : q ≠ r) :
    (s.setRegion r m).region q = s.region q := by
  cases r <;> cases q <;> first | rfl | exact absurd rfl h

@[simp] theorem State.clearRegions_region (s : State) (r : Region) : s.clearRegions.region r = [] := by
  cases r <;> rfl

@[simp] theorem State.begin_region (s : State) (r : Region) : s.begin.region r = s.region r := by
  cases r <;> rfl

@[simp] theorem State.begin_begin (s : State) : s.begin.begin = s.begin := rfl

end Sys2Proof.Machine
end

