-- ==== Sys2Proof/Laws/Exec.lean ====
section
/-! SUPPORT. Laws of the dispatch: for each transaction, exactly when it answers a next state, and which. -/

namespace Sys2Proof.Machine

theorem whenLive_of_live {s : State} (h : s.live = true) (body : State → Exec) :
    whenLive s body = body s.begin := by
  simp [whenLive, h]

theorem whenLive_of_not_live {s : State} (h : s.live = false) (body : State → Exec) :
    whenLive s body = .refused .notLive := by
  simp [whenLive, h]

/-- A guarded transaction answers a next state only on a live block. -/
theorem whenLive_eq_next {s t : State} {body : State → Exec} :
    whenLive s body = .next t ↔ s.live = true ∧ body s.begin = .next t := by
  cases h : s.live <;> simp [whenLive, h]

theorem exec_advance_eq_next {c : Word} {s t : State} :
    exec (.advance c) s = .next t ↔ s.live = true ∧
      t = (advanceState c s.begin).answer
        (.budget (advanceState c s.begin).video.cyclesToNextEvent) := by
  simp [exec, execAdvance, whenLive_eq_next, @eq_comm State t]

theorem exec_writeStatus_eq_next {v : Half} {s t : State} :
    exec (.writeStatus v) s = .next t ↔ s.live = true ∧
      t = { s.begin with video := writeStatusVideo v s.video } := by
  simp [exec, execWriteStatus, whenLive_eq_next, @eq_comm State t]

theorem exec_readStatus_eq_next {s t : State} :
    exec .readStatus s = .next t ↔ s.live = true ∧
      t = s.begin.answer (.statusValue (statusRead s.video)) := by
  simp [exec, execReadStatus, whenLive_eq_next, @eq_comm State t]

theorem exec_writeVideoReg_eq_next {a : Addr} {v : Half} {s t : State} :
    exec (.writeVideoReg a v) s = .next t ↔ s.live = true ∧ a ≠ s.params.statusRegAddr ∧
      t = passThrough a v s.begin := by
  by_cases h : a = s.params.statusRegAddr <;>
    simp [exec, execWriteVideoReg, whenLive_eq_next, h, @eq_comm State t]

theorem exec_attachRenderer_eq_next {h : RendererHandle} {s t : State} :
    exec (.attachRenderer h) s = .next t ↔ s.live = true ∧ t = s.begin.associate h := by
  simp [exec, execAttachRenderer, whenLive_eq_next, @eq_comm State t]

theorem exec_powerOn_eq_next {s t : State} :
    exec .powerOn s = .next t ↔ s.live = false ∧ t = powerUp s.begin := by
  cases h : s.live <;> simp [exec, execPowerOn, h, @eq_comm State t]

theorem exec_teardown_eq_next {s t : State} :
    exec .teardown s = .next t ↔ s.live = true ∧ t = tearDown s.begin := by
  simp [exec, execTeardown, whenLive_eq_next, @eq_comm State t]

/-- The guard of a region access, turned round. -/
theorem whenOffset_eq_next {r : Region} {off : Nat} {s t : State} {body : State → State} :
    whenOffset r off s body = .next t ↔
      s.live = true ∧ off < regionSize s.params r ∧ t = body s.begin := by
  by_cases h : off < regionSize s.params r <;>
    simp [whenOffset, whenLive_eq_next, h, @eq_comm State t]

/-! ### The pass-through and the lifecycle, field by field -/

@[simp] theorem passThrough_video (a : Addr) (v : Half) (s : State) :
    (passThrough a v s).video = s.video := by simp [passThrough]
@[simp] theorem passThrough_renderer (a : Addr) (v : Half) (s : State) :
    (passThrough a v s).renderer = s.renderer := by simp [passThrough]
@[simp] theorem passThrough_live (a : Addr) (v : Half) (s : State) :
    (passThrough a v s).live = s.live := by simp [passThrough]
@[simp] theorem passThrough_vram (a : Addr) (v : Half) (s : State) :
    (passThrough a v s).vram = s.vram := by simp [passThrough]
@[simp] theorem passThrough_palette (a : Addr) (v : Half) (s : State) :
    (passThrough a v s).palette = s.palette := by simp [passThrough]
@[simp] theorem passThrough_oam (a : Addr) (v : Half) (s : State) :
    (passThrough a v s).oam = s.oam := by simp [passThrough]
@[simp] theorem passThrough_params (a : Addr) (v : Half) (s : State) :
    (passThrough a v s).params = s.params := by simp [passThrough]
@[simp] theorem passThrough_requests (a : Addr) (v : Half) (s : State) :
    (passThrough a v s).requests = s.requests := by simp [passThrough]
@[simp] theorem passThrough_pacingAnswers (a : Addr) (v : Half) (s : State) :
    (passThrough a v s).pacingAnswers = s.pacingAnswers := by simp [passThrough]
@[simp] theorem passThrough_pacingDraws (a : Addr) (v : Half) (s : State) :
    (passThrough a v s).pacingDraws = s.pacingDraws := by simp [passThrough]
@[simp] theorem passThrough_outputs (a : Addr) (v : Half) (s : State) :
    (passThrough a v s).outputs = s.outputs ++ [.rWriteReg s.renderer a v] := by
  simp [passThrough]
@[simp] theorem passThrough_result (a : Addr) (v : Half) (s : State) :
    (passThrough a v s).result = .storedValue (s.registerAnswer s.renderer v) := by
  simp [passThrough]

@[simp] theorem tearDown_outputs (s : State) :
    (tearDown s).outputs =
      s.outputs ++ [.rDeinit s.renderer, .rBind Config.dummy, .rInit Config.dummy] := by
  simp [tearDown]
@[simp] theorem tearDown_video (s : State) : (tearDown s).video = s.video := rfl
@[simp] theorem tearDown_renderer (s : State) : (tearDown s).renderer = Config.dummy := rfl
@[simp] theorem tearDown_live (s : State) : (tearDown s).live = false := rfl
@[simp] theorem tearDown_region (s : State) (r : Region) : (tearDown s).region r = [] := by
  cases r <;> rfl
@[simp] theorem powerUp_outputs (s : State) : (powerUp s).outputs = s.outputs := rfl
@[simp] theorem powerUp_video (s : State) : (powerUp s).video = Video.reset := rfl
@[simp] theorem powerUp_renderer (s : State) : (powerUp s).renderer = Config.dummy := rfl
@[simp] theorem powerUp_live (s : State) : (powerUp s).live = true := rfl
@[simp] theorem powerUp_region (s : State) (r : Region) : (powerUp s).region r = [] := by
  cases r <;> rfl

end Sys2Proof.Machine
end

