-- ==== Sys2Proof/Laws/Memory.lean ====
section
/-! SUPPORT. Laws of region memory: read after write, other offsets, the canonical form. -/

namespace Sys2Proof.Machine

@[simp] theorem Memory.read_nil (a : Nat) : Memory.read [] a = Config.regionFill := rfl

/-- Below every listed offset a memory reads as the fill byte. -/
theorem Memory.read_of_lt {m : Memory} {a : Nat} (h : ∀ c ∈ m, a < c.1) :
    Memory.read m a = Config.regionFill := by
  induction m with
  | nil => rfl
  | cons c m ih =>
    have hc : a ≠ c.1 := Nat.ne_of_lt (h c (by simp))
    simp only [Memory.read, if_neg hc]
    exact ih fun d hd => h d (by simp [hd])

theorem Memory.read_put {m : Memory} {a : Nat} (b : Byte) (x : Nat) (h : ∀ c ∈ m, a < c.1) :
    Memory.read (m.put a b) x = if x = a then b else Memory.read m x := by
  unfold Memory.put
  split
  · next hb =>
    split
    · next hx => rw [hx, hb]; exact Memory.read_of_lt h
    · rfl
  · rfl

/-- Every byte after a write: the written one, and every other as before. -/
theorem Memory.read_write {m : Memory} (hm : m.wf) (a : Nat) (b : Byte) (x : Nat) :
    Memory.read (m.write a b) x = if x = a then b else Memory.read m x := by
  induction m with
  | nil => exact Memory.read_put b x (by simp)
  | cons c m ih =>
    obtain ⟨hs, hf⟩ := hm
    rw [List.pairwise_cons] at hs
    have ht : Memory.wf m := ⟨hs.2, fun d hd => hf d (by simp [hd])⟩
    have hrest : ∀ d ∈ m, c.1 < d.1 := hs.1
    unfold Memory.write
    split
    · next hlt =>
      refine Memory.read_put b x fun d hd => ?_
      rcases List.mem_cons.mp hd with rfl | hd
      · exact hlt
      · exact Nat.lt_trans hlt (hrest d hd)
    · split
      · next _ heq =>
        subst heq
        rw [Memory.read_put b x hrest]
        by_cases hx : x = c.1 <;> simp [Memory.read, hx]
      · next hlt hne =>
        simp only [Memory.read]
        by_cases hx : x = c.1
        · simp [hx, Ne.symm hne]
        · simp [hx, ih ht]

theorem Memory.read_write_same {m : Memory} (hm : m.wf) (a : Nat) (b : Byte) :
    Memory.read (m.write a b) a = b := by
  simp [Memory.read_write hm]

theorem Memory.read_write_other {m : Memory} (hm : m.wf) {a x : Nat} (b : Byte) (h : x ≠ a) :
    Memory.read (m.write a b) x = Memory.read m x := by
  simp [Memory.read_write hm, h]

theorem Memory.mem_put {m : Memory} {a : Nat} {b : Byte} {c : Host.Cell} (h : c ∈ m.put a b) :
    (c = (a, b) ∧ b ≠ Config.regionFill) ∨ c ∈ m := by
  unfold Memory.put at h
  split at h
  · exact .inr h
  · next hb => exact (List.mem_cons.mp h).imp (⟨·, hb⟩) id

/-- A cell after a write is the written one or an old one. -/
theorem Memory.mem_write {m : Memory} {a : Nat} {b : Byte} {c : Host.Cell} (h : c ∈ m.write a b) :
    (c = (a, b) ∧ b ≠ Config.regionFill) ∨ c ∈ m := by
  induction m with
  | nil => exact Memory.mem_put h
  | cons d m ih =>
    unfold Memory.write at h
    split at h
    · exact Memory.mem_put h
    · split at h
      · exact (Memory.mem_put h).imp id (by simp +contextual)
      · rcases List.mem_cons.mp h with rfl | h
        · exact .inr (by simp)
        · exact (ih h).imp id (by simp +contextual)

theorem Memory.wf_put {m : Memory} {a : Nat} {b : Byte} (hm : m.wf) (h : ∀ c ∈ m, a < c.1) :
    Memory.wf (m.put a b) := by
  unfold Memory.put
  split
  · exact hm
  · next hb =>
    refine ⟨List.pairwise_cons.mpr ⟨h, hm.1⟩, fun c hc => ?_⟩
    rcases List.mem_cons.mp hc with rfl | hc
    · exact hb
    · exact hm.2 c hc

/-- A write keeps the canonical form. -/
theorem Memory.wf_write {m : Memory} (hm : m.wf) (a : Nat) (b : Byte) : Memory.wf (m.write a b) := by
  induction m with
  | nil => exact Memory.wf_put hm (by simp)
  | cons c m ih =>
    have hs := List.pairwise_cons.mp hm.1
    have ht : Memory.wf m := ⟨hs.2, fun d hd => hm.2 d (by simp [hd])⟩
    unfold Memory.write
    split
    · next hlt =>
      refine Memory.wf_put hm fun d hd => ?_
      rcases List.mem_cons.mp hd with rfl | hd
      · exact hlt
      · exact Nat.lt_trans hlt (hs.1 d hd)
    · split
      · next _ heq => exact Memory.wf_put ht (heq ▸ hs.1)
      · next hlt hne =>
        refine ⟨List.pairwise_cons.mpr ⟨fun d hd => ?_, (ih ht).1⟩, fun d hd => ?_⟩
        · rcases Memory.mem_write hd with ⟨rfl, _⟩ | hd
          · exact Nat.lt_of_le_of_ne (Nat.le_of_not_lt hlt) (Ne.symm hne)
          · exact hs.1 d hd
        · rcases List.mem_cons.mp hd with rfl | hd
          · exact hm.2 c (by simp)
          · exact (ih ht).2 d hd

/-- Two canonical memories that read the same everywhere are the same list. -/
theorem Memory.ext_of_wf {m n : Memory} (hm : m.wf) (hn : n.wf)
    (h : ∀ a, Memory.read m a = Memory.read n a) : m = n := by
  induction m generalizing n with
  | nil =>
    cases n with
    | nil => rfl
    | cons d n => exact absurd (h d.1).symm (by simpa [Memory.read] using hn.2 d (by simp))
  | cons c m ih =>
    have hs := List.pairwise_cons.mp hm.1
    cases n with
    | nil => exact absurd (h c.1) (by simpa [Memory.read] using hm.2 c (by simp))
    | cons d n =>
      have ht := List.pairwise_cons.mp hn.1
      have key : c.1 = d.1 := by
        rcases Nat.lt_trichotomy c.1 d.1 with hlt | heq | hgt
        · refine absurd ((h c.1).trans (Memory.read_of_lt fun e he => ?_))
            (by simpa [Memory.read] using hm.2 c (by simp))
          rcases List.mem_cons.mp he with rfl | he
          · exact hlt
          · exact Nat.lt_trans hlt (ht.1 e he)
        · exact heq
        · refine absurd ((h d.1).symm.trans (Memory.read_of_lt fun e he => ?_))
            (by simpa [Memory.read] using hn.2 d (by simp))
          rcases List.mem_cons.mp he with rfl | he
          · exact hgt
          · exact Nat.lt_trans hgt (hs.1 e he)
      have hval : c.2 = d.2 := by simpa [Memory.read, key] using h c.1
      have hcd : c = d := Prod.ext key hval
      subst hcd
      have hm' : Memory.wf m := ⟨hs.2, fun e he => hm.2 e (by simp [he])⟩
      have hn' : Memory.wf n := ⟨ht.2, fun e he => hn.2 e (by simp [he])⟩
      rw [ih hm' hn' fun a => ?_]
      by_cases ha : a = c.1
      · rw [ha, Memory.read_of_lt hs.1, Memory.read_of_lt ht.1]
      · simpa [Memory.read, ha] using h a

end Sys2Proof.Machine
end

