-- ==== Sys2Proof/Laws/Timing.lean ====
section
/-! SUPPORT. Laws of ADVANCE: what it does, split into the video fields, the output list and the pacing
answers it uses up; every other field is as before. -/

namespace Sys2Proof.Machine

/-! ### The video fields alone -/

/-- The scanline cases of an End-of-Hblank, on the video fields (40_timing.md R96). -/
def lineVideo (v : Video) : Video :=
  if v.scanline = Config.visibleLines then
    { v with inVblank := true, cyclesToNextVblankIRQ := Config.frameLength }
  else if v.scanline = Config.totalLines - 1#32 then { v with inVblank := false }
  else if v.scanline = Config.totalLines then { v with scanline := 0#32 }
  else v

/-- The vcounter match, on the video fields (40_timing.md R97). -/
def matchVideo (v : Video) : Video :=
  let hit := matchesTarget v.scanline v.vcountTarget
  { v with
    vcounterMatch := hit
    cyclesToNextVcounterIRQ :=
      if hit && v.vcounterIRQEnabled then v.cyclesToNextVcounterIRQ + Config.frameLength
      else v.cyclesToNextVcounterIRQ }

/-- End-of-Hblank on the video fields (40_timing.md R95 to R97). -/
def endVideo (v : Video) : Video := matchVideo (lineVideo (endHblankVideo v))

/-- An event on the video fields (40_timing.md R91). -/
def eventVideo (v : Video) : Video :=
  if v.inHblank then endVideo (rebase v) else startHblankVideo (rebase v)

/-- ADVANCE on the video fields (40_timing.md R90, R99). -/
def advanceVideo (c : Word) (v : Video) : Video :=
  let e := { v with cyclesToNextEvent := v.cyclesToNextEvent - c }
  if stillPositive e.cyclesToNextEvent then e
  else { eventVideo e with lastEventDiff := (eventVideo e).cyclesToNextEvent }

/-! ### The output list of an event -/

/-- The outputs of a Start-of-Hblank, from the fields before it (40_timing.md R93). -/
def startOutputs (v : Video) : List OutputEvent :=
  (if visible v.scanline then [.dmaHblank] else []) ++
    if v.hblankIRQEnabled then [.irq .hblank] else []

/-- The outputs of the entry into line 160 (40_timing.md R96). -/
def vblankOutputs (active : Bool) (h : RendererHandle) (enabled : Bool) : List OutputEvent :=
  .paceQuery :: (if active then [.rFinishFrame h] else []) ++ .dmaVblank ::
    (if enabled then [.irq .vblank] else []) ++ [.paceFramePosted]

/-- The outputs of an End-of-Hblank that makes the fields `v` (40_timing.md R96 to R98). -/
def endOutputs (active : Bool) (h : RendererHandle) (v : Video) : List OutputEvent :=
  (if v.scanline = Config.visibleLines then vblankOutputs active h v.vblankIRQEnabled else []) ++
    (if v.vcounterMatch && v.vcounterIRQEnabled then [.irq .vcounter] else []) ++
    if visible v.scanline then .paceQuery :: if active then [.rDrawScanline h v.scanline] else []
    else []

/-- An End-of-Hblank that makes the fields `v` asks the pacing collaborator (40_timing.md R96, R98). -/
def asksPacing (v : Video) : Bool := v.scanline == Config.visibleLines || visible v.scanline

/-- The outputs of an event. -/
def eventOutputs (active : Bool) (h : RendererHandle) (v : Video) : List OutputEvent :=
  if v.inHblank then endOutputs active h (endVideo (rebase v)) else startOutputs v

/-- An event asks the pacing collaborator. -/
def eventAsks (v : Video) : Bool := v.inHblank && asksPacing (endVideo (rebase v))

/-! ### Each function is these parts -/

/-- A state with new video fields, further outputs, and one pacing answer used up if one was asked. -/
def State.moved (s : State) (v : Video) (evs : List OutputEvent) (asked : Bool) : State :=
  { (if asked then s.takePacingAnswer else s) with video := v, outputs := s.outputs ++ evs }

theorem startHblank_eq (s : State) :
    startHblank s = s.moved (startHblankVideo s.video) (startOutputs s.video) false := by
  obtain ⟨v⟩ := s
  cases h : visible v.scanline <;> cases h' : v.hblankIRQEnabled <;>
    simp [startHblank, State.moved, startOutputs, startHblankVideo, State.raiseInterrupt,
      State.emitIf, State.emit, h, h']

theorem enterVblank_eq (s : State) :
    enterVblank s = s.moved
      { s.video with inVblank := true, cyclesToNextVblankIRQ := Config.frameLength }
      (vblankOutputs s.pacingAnswer s.renderer s.video.vblankIRQEnabled) true := by
  obtain ⟨v, rd, lv, m1, m2, m3, ps, out, res, req, pa, pd, ra, rd'⟩ := s
  cases pa <;> cases h : v.vblankIRQEnabled <;>
    simp [enterVblank, State.moved, vblankOutputs, State.emitIfFrameActive, State.takePacingAnswer,
      State.pacingAnswer, State.raiseInterrupt, State.emitIf, State.emit, h] <;>
    split <;> simp_all

theorem vcounterCheck_eq (s : State) :
    vcounterCheck s = s.moved (matchVideo s.video)
      (if matchesTarget s.video.scanline s.video.vcountTarget && s.video.vcounterIRQEnabled then
        [.irq .vcounter] else []) false := by
  obtain ⟨v⟩ := s
  cases h : matchesTarget v.scanline v.vcountTarget <;> cases h' : v.vcounterIRQEnabled <;>
    simp [vcounterCheck, State.moved, matchVideo, State.raiseInterrupt, State.emitIf, State.emit, h, h']

theorem drawLine_eq (s : State) :
    drawLine s = s.moved s.video
      (if visible s.video.scanline then
        .paceQuery :: if s.pacingAnswer then [.rDrawScanline s.renderer s.video.scanline] else []
      else []) (visible s.video.scanline) := by
  obtain ⟨v, rd, lv, m1, m2, m3, ps, out, res, req, pa, pd, ra, rd'⟩ := s
  cases pa <;> cases h : visible v.scanline <;>
    simp [drawLine, State.moved, State.emitIfFrameActive, State.takePacingAnswer,
      State.pacingAnswer, State.emitIf, State.emit, h] <;>
    split <;> simp_all

theorem scanlineCases_eq (s : State) :
    scanlineCases s = s.moved (lineVideo s.video)
      (if s.video.scanline = Config.visibleLines then
        vblankOutputs s.pacingAnswer s.renderer s.video.vblankIRQEnabled else [])
      (s.video.scanline == Config.visibleLines) := by
  unfold scanlineCases lineVideo
  split
  · next h => rw [enterVblank_eq]; simp [h]
  · next h =>
    have hb : (s.video.scanline == Config.visibleLines) = false := by simpa using h
    rw [hb]
    split
    · simp [leaveVblank, State.moved]
    · split <;> simp [wrapFrame, State.moved]

/-! ### Moves in a row -/

@[simp] theorem State.moved_video (s : State) (v : Video) (evs : List OutputEvent) (b : Bool) :
    (s.moved v evs b).video = v := rfl

@[simp] theorem State.moved_outputs (s : State) (v : Video) (evs : List OutputEvent) (b : Bool) :
    (s.moved v evs b).outputs = s.outputs ++ evs := rfl

@[simp] theorem State.moved_renderer (s : State) (v : Video) (evs : List OutputEvent) (b : Bool) :
    (s.moved v evs b).renderer = s.renderer := by cases b <;> simp [State.moved]

@[simp] theorem State.moved_live (s : State) (v : Video) (evs : List OutputEvent) (b : Bool) :
    (s.moved v evs b).live = s.live := by cases b <;> simp [State.moved]

@[simp] theorem State.moved_vram (s : State) (v : Video) (evs : List OutputEvent) (b : Bool) :
    (s.moved v evs b).vram = s.vram := by cases b <;> simp [State.moved]

@[simp] theorem State.moved_palette (s : State) (v : Video) (evs : List OutputEvent) (b : Bool) :
    (s.moved v evs b).palette = s.palette := by cases b <;> simp [State.moved]

@[simp] theorem State.moved_oam (s : State) (v : Video) (evs : List OutputEvent) (b : Bool) :
    (s.moved v evs b).oam = s.oam := by cases b <;> simp [State.moved]

@[simp] theorem State.moved_params (s : State) (v : Video) (evs : List OutputEvent) (b : Bool) :
    (s.moved v evs b).params = s.params := by cases b <;> simp [State.moved]

@[simp] theorem State.moved_result (s : State) (v : Video) (evs : List OutputEvent) (b : Bool) :
    (s.moved v evs b).result = s.result := by cases b <;> simp [State.moved]

@[simp] theorem State.moved_requests (s : State) (v : Video) (evs : List OutputEvent) (b : Bool) :
    (s.moved v evs b).requests = s.requests := by cases b <;> simp [State.moved]

@[simp] theorem State.moved_rendererAnswers (s : State) (v : Video) (evs : List OutputEvent)
    (b : Bool) : (s.moved v evs b).rendererAnswers = s.rendererAnswers := by
  cases b <;> simp [State.moved]

@[simp] theorem State.moved_rendererDraws (s : State) (v : Video) (evs : List OutputEvent)
    (b : Bool) : (s.moved v evs b).rendererDraws = s.rendererDraws := by
  cases b <;> simp [State.moved]

@[simp] theorem State.moved_pacingAnswer (s : State) (v : Video) (evs : List OutputEvent) :
    (s.moved v evs false).pacingAnswer = s.pacingAnswer := rfl

theorem State.moved_moved_false (s : State) (v w : Video) (e f : List OutputEvent) (b : Bool) :
    (s.moved v e b).moved w f false = s.moved w (e ++ f) b := by
  cases b <;> simp [State.moved]

theorem State.moved_false_moved (s : State) (v w : Video) (e f : List OutputEvent) (b : Bool) :
    (s.moved v e false).moved w f b = s.moved w (e ++ f) b := by
  cases b <;> simp [State.moved, State.takePacingAnswer]
  split <;> simp

theorem State.with_video_moved (s : State) (u v : Video) (e : List OutputEvent) (b : Bool) :
    ({ s with video := u } : State).moved v e b = s.moved v e b := by
  cases b <;> simp [State.moved, State.takePacingAnswer]
  split <;> simp

/-! ### The whole event and ADVANCE -/

@[simp] theorem visible_visibleLines : visible Config.visibleLines = false := by decide

theorem lineVideo_of_visibleLines {v : Video} (h : v.scanline = Config.visibleLines) :
    (lineVideo v).scanline = Config.visibleLines := by
  simp [lineVideo, h]

theorem lineVideo_ne_visibleLines {v : Video} (h : v.scanline ≠ Config.visibleLines) :
    (lineVideo v).scanline ≠ Config.visibleLines := by
  unfold lineVideo
  split
  · contradiction
  · split
    · exact h
    · split
      · exact (by decide : (0#32 : Word) ≠ Config.visibleLines)
      · exact h

theorem endHblank_eq (s : State) :
    endHblank s = s.moved (endVideo s.video)
      (endOutputs s.pacingAnswer s.renderer (endVideo s.video)) (asksPacing (endVideo s.video)) := by
  unfold endHblank
  rw [scanlineCases_eq, State.with_video_moved, vcounterCheck_eq, State.moved_moved_false, drawLine_eq]
  have hs : (endVideo s.video).scanline = (lineVideo (endHblankVideo s.video)).scanline := rfl
  have hm : matchesTarget (lineVideo (endHblankVideo s.video)).scanline
      (lineVideo (endHblankVideo s.video)).vcountTarget = (endVideo s.video).vcounterMatch := rfl
  have he : (lineVideo (endHblankVideo s.video)).vcounterIRQEnabled
      = (endVideo s.video).vcounterIRQEnabled := rfl
  have hv : (endVideo s.video).vblankIRQEnabled = (endHblankVideo s.video).vblankIRQEnabled := by
    unfold endVideo matchVideo lineVideo
    repeat' split
    all_goals rfl
  simp only [State.moved_video, hm, he]
  change State.moved _ (endVideo s.video) _ _ = _
  by_cases h : (endHblankVideo s.video).scanline = Config.visibleLines
  · have hl : (endVideo s.video).scanline = Config.visibleLines := lineVideo_of_visibleLines h
    have ha : asksPacing (endVideo s.video) = true := by simp [asksPacing, hl]
    have hvis : visible (matchVideo (lineVideo (endHblankVideo s.video))).scanline = false := by
      change visible (endVideo s.video).scanline = false
      rw [hl]; rfl
    rw [hvis, State.moved_moved_false, ha]
    simp [endOutputs, hl, h, hv, State.pacingAnswer]
  · have hl : (endVideo s.video).scanline ≠ Config.visibleLines := lineVideo_ne_visibleLines h
    have hb : ((endHblankVideo s.video).scanline == Config.visibleLines) = false := by simpa using h
    have ha : asksPacing (endVideo s.video) = visible (endVideo s.video).scanline := by
      have : ((endVideo s.video).scanline == Config.visibleLines) = false := by simpa using hl
      simp [asksPacing, this]
    rw [hb, State.moved_false_moved, ha]
    simp [endOutputs, hl, h]
    rfl

theorem event_eq (s : State) :
    event s = s.moved (eventVideo s.video) (eventOutputs s.pacingAnswer s.renderer s.video)
      (eventAsks s.video) := by
  unfold event eventVideo eventOutputs eventAsks
  have hr : (rebase s.video).inHblank = s.video.inHblank := rfl
  cases h : s.video.inHblank
  · simp only [hr, h, Bool.false_eq_true, if_false, Bool.false_and]
    rw [startHblank_eq, State.with_video_moved]
    rfl
  · simp only [hr, h, if_true, Bool.true_and]
    rw [endHblank_eq, State.with_video_moved]
    rfl

/-- Before an event is due, ADVANCE only lowers E (40_timing.md R90 step 2). -/
theorem advanceState_of_positive {c : Word} {s : State}
    (h : stillPositive (s.video.cyclesToNextEvent - c) = true) : advanceState c s = spend c s := by
  simp [advanceState, spend, h]

/-- The fields after the cycles are subtracted (40_timing.md R90 step 1). -/
def spendVideo (c : Word) (v : Video) : Video :=
  { v with cyclesToNextEvent := v.cyclesToNextEvent - c }

/-- ADVANCE with an event due is that one event (40_timing.md R90, R101). -/
theorem advanceState_of_due {c : Word} {s : State}
    (h : stillPositive (s.video.cyclesToNextEvent - c) = false) :
    advanceState c s = s.moved (advanceVideo c s.video)
      (eventOutputs s.pacingAnswer s.renderer (spendVideo c s.video))
      (eventAsks (spendVideo c s.video)) := by
  have hv : advanceVideo c s.video = { eventVideo (spendVideo c s.video) with
      lastEventDiff := (eventVideo (spendVideo c s.video)).cyclesToNextEvent } := by
    simp [advanceVideo, spendVideo, h]
  rw [hv]
  have he : event (spend c s) = s.moved (eventVideo (spendVideo c s.video))
      (eventOutputs s.pacingAnswer s.renderer (spendVideo c s.video))
      (eventAsks (spendVideo c s.video)) := by
    rw [event_eq]; exact State.with_video_moved _ _ _ _ _
  have : stillPositive (spend c s).video.cyclesToNextEvent = false := h
  simp only [advanceState, this, Bool.false_eq_true, if_false, he]
  rfl

@[simp] theorem advanceState_video (c : Word) (s : State) :
    (advanceState c s).video = advanceVideo c s.video := by
  cases h : stillPositive (s.video.cyclesToNextEvent - c)
  · rw [advanceState_of_due h, State.moved_video]
  · rw [advanceState_of_positive h]
    simp [spend, advanceVideo, h]

/-- ADVANCE leaves everything but the video fields, the output list and the pacing answers. -/
theorem advanceState_frame (c : Word) (s : State) :
    ∃ v evs asked, advanceState c s = s.moved v evs asked := by
  cases h : stillPositive (s.video.cyclesToNextEvent - c)
  · exact ⟨_, _, _, advanceState_of_due h⟩
  · refine ⟨spendVideo c s.video, [], false, ?_⟩
    rw [advanceState_of_positive h]
    simp [spend, spendVideo, State.moved]

@[simp] theorem advanceState_renderer (c : Word) (s : State) : (advanceState c s).renderer = s.renderer := by
  obtain ⟨v, evs, asked, h⟩ := advanceState_frame c s
  rw [h, State.moved_renderer]

@[simp] theorem advanceState_live (c : Word) (s : State) : (advanceState c s).live = s.live := by
  obtain ⟨v, evs, asked, h⟩ := advanceState_frame c s
  rw [h, State.moved_live]

@[simp] theorem advanceState_vram (c : Word) (s : State) : (advanceState c s).vram = s.vram := by
  obtain ⟨v, evs, asked, h⟩ := advanceState_frame c s
  rw [h, State.moved_vram]

@[simp] theorem advanceState_palette (c : Word) (s : State) : (advanceState c s).palette = s.palette := by
  obtain ⟨v, evs, asked, h⟩ := advanceState_frame c s
  rw [h, State.moved_palette]

@[simp] theorem advanceState_oam (c : Word) (s : State) : (advanceState c s).oam = s.oam := by
  obtain ⟨v, evs, asked, h⟩ := advanceState_frame c s
  rw [h, State.moved_oam]

@[simp] theorem advanceState_params (c : Word) (s : State) : (advanceState c s).params = s.params := by
  obtain ⟨v, evs, asked, h⟩ := advanceState_frame c s
  rw [h, State.moved_params]

@[simp] theorem advanceState_result (c : Word) (s : State) : (advanceState c s).result = s.result := by
  obtain ⟨v, evs, asked, h⟩ := advanceState_frame c s
  rw [h, State.moved_result]

@[simp] theorem advanceState_requests (c : Word) (s : State) : (advanceState c s).requests = s.requests := by
  obtain ⟨v, evs, asked, h⟩ := advanceState_frame c s
  rw [h, State.moved_requests]

@[simp] theorem advanceState_rendererAnswers (c : Word) (s : State) : (advanceState c s).rendererAnswers = s.rendererAnswers := by
  obtain ⟨v, evs, asked, h⟩ := advanceState_frame c s
  rw [h, State.moved_rendererAnswers]

@[simp] theorem advanceState_rendererDraws (c : Word) (s : State) : (advanceState c s).rendererDraws = s.rendererDraws := by
  obtain ⟨v, evs, asked, h⟩ := advanceState_frame c s
  rw [h, State.moved_rendererDraws]

@[simp] theorem advanceState_region (c : Word) (s : State) (r : Region) :
    (advanceState c s).region r = s.region r :=
  State.region_congr (by simp) (by simp) (by simp) r

/-- The output list of an ADVANCE with an event due. -/
theorem advanceState_outputs_of_due {c : Word} {s : State}
    (h : stillPositive (s.video.cyclesToNextEvent - c) = false) :
    (advanceState c s).outputs =
      s.outputs ++ eventOutputs s.pacingAnswer s.renderer (spendVideo c s.video) := by
  rw [advanceState_of_due h, State.moved_outputs]

/-- An ADVANCE with no event due emits nothing. -/
theorem advanceState_outputs_of_positive {c : Word} {s : State}
    (h : stillPositive (s.video.cyclesToNextEvent - c) = true) :
    (advanceState c s).outputs = s.outputs := by
  rw [advanceState_of_positive h]; rfl

/-- `0 < E` as a number. -/
theorem stillPositive_eq (e : Word) : stillPositive e = decide (0 < e.toInt) := by
  simp [stillPositive, BitVec.slt]

/-- The visible test as a number. -/
theorem visible_eq (l : Word) : visible l = decide (l.toInt < 160) := by
  rfl

end Sys2Proof.Machine
end

