-- ==== Sys2Proof/Laws/Word.lean ====
section
/-! SUPPORT. Laws of 32-bit words: signed arithmetic that does not leave the range does not wrap
(00_scope.md R14). -/

namespace Sys2Proof

theorem Word.toInt_add {x y : Word} (hl : -2 ^ 31 ≤ x.toInt + y.toInt) (hu : x.toInt + y.toInt < 2 ^ 31) :
    (x + y).toInt = x.toInt + y.toInt := by
  rw [BitVec.toInt_add]
  exact Int.bmod_eq_of_le (by omega) (by omega)

theorem Word.toInt_sub {x y : Word} (hl : -2 ^ 31 ≤ x.toInt - y.toInt) (hu : x.toInt - y.toInt < 2 ^ 31) :
    (x - y).toInt = x.toInt - y.toInt := by
  rw [BitVec.toInt_sub]
  exact Int.bmod_eq_of_le (by omega) (by omega)

theorem Word.toInt_mul {x y : Word} (hl : -2 ^ 31 ≤ x.toInt * y.toInt) (hu : x.toInt * y.toInt < 2 ^ 31) :
    (x * y).toInt = x.toInt * y.toInt := by
  rw [BitVec.toInt_mul]
  exact Int.bmod_eq_of_le (by omega) (by omega)

/-- A word below 2^31 is non-negative as a signed number. -/
theorem Word.toInt_of_lt {x : Word} (h : x.toNat < 2 ^ 31) : x.toInt = x.toNat := by
  rw [BitVec.toInt_eq_toNat_cond]
  split <;> omega

/-- A non-negative word is its unsigned number. -/
theorem Word.toNat_of_nonneg {x : Word} (h : 0 ≤ x.toInt) : (x.toNat : Int) = x.toInt := by
  rw [BitVec.toInt_eq_toNat_cond] at h ⊢
  split at h <;> split <;> omega

theorem Word.toInt_lt (x : Word) : x.toInt < 2 ^ 31 := by
  have := BitVec.toInt_lt (x := x); simpa using this

theorem Word.le_toInt (x : Word) : -2 ^ 31 ≤ x.toInt := by
  have := BitVec.le_toInt x; simpa using this

/-- Words with the same signed number are the same. -/
theorem Word.ext_toInt {x y : Word} (h : x.toInt = y.toInt) : x = y := BitVec.eq_of_toInt_eq h

end Sys2Proof
end

