-- ==== Sys2Proof/Laws/Settled.lean ====
section
/-! SUPPORT. Laws of settled states: what ADVANCE makes of the video fields of a settled state, in
numbers. -/

namespace Sys2Proof.Machine

/-- Start-of-Hblank from a settled Hdraw: L, E, H, HI and D take fixed values (40_timing.md R92). -/
theorem Video.Settled.start {v : Video} (hs : v.Settled) (hb : v.inHblank = false) {c : Word}
    (hd : (v.cyclesToNextEvent - c).toInt ≤ 0) :
    advanceVideo c v =
      { v with
        inHblank                   := true
        cyclesToNextEvent          := 226#32
        cyclesSinceLastHblankStart := 0#32
        cyclesToNextHblankStart    := 1232#32
        cyclesToNextHblankIRQ      := 1232#32
        cyclesToNextVblankIRQ      := v.cyclesToNextVblankIRQ - 1006#32
        cyclesToNextVcounterIRQ    := v.cyclesToNextVcounterIRQ - 1006#32
        lastEventDiff              := 226#32 } := by
  have ht := hs.countdownTable
  have hp : stillPositive (v.cyclesToNextEvent - c) = false := by
    rw [stillPositive_eq]; exact decide_eq_false (by omega)
  have hHD : v.cyclesToNextHblankStart = 1006#32 ∧ v.lastEventDiff = 1006#32 := by
    unfold Video.CountdownTable at ht
    rw [hb] at ht
    simp only [Bool.false_eq_true, if_false] at ht
    split at ht <;> exact ⟨ht.2.1, ht.2.2.1⟩
  simp [advanceVideo, hp, eventVideo, hb, startHblankVideo, rebase, hHD.1, hHD.2,
    Config.hblankLength, Config.hdrawLength]

/-- The fields an End-of-Hblank from a settled Hblank makes (40_timing.md R95 to R97). -/
def settledEnd (v : Video) : Video :=
  let line := if v.scanline + 1#32 = 228#32 then 0#32 else v.scanline + 1#32
  let hit := matchesTarget line v.vcountTarget
  { v with
    scanline                   := line
    inHblank                   := false
    inVblank                   :=
      if line = 160#32 then true else if line = 227#32 then false else v.inVblank
    vcounterMatch              := hit
    cyclesToNextEvent          := 1006#32
    cyclesSinceLastHblankStart := -226#32
    cyclesToNextHblankStart    := 1006#32
    cyclesToNextHblankIRQ      := 1006#32
    cyclesToNextVblankIRQ      :=
      if line = 160#32 then 280896#32 else v.cyclesToNextVblankIRQ - 226#32
    cyclesToNextVcounterIRQ    :=
      if hit && v.vcounterIRQEnabled then v.cyclesToNextVcounterIRQ - 226#32 + 280896#32
      else v.cyclesToNextVcounterIRQ - 226#32
    lastEventDiff              := 1006#32 }

/-- End-of-Hblank from a settled Hblank (40_timing.md R95 to R97, R99). -/
theorem Video.Settled.finish {v : Video} (hs : v.Settled) (hb : v.inHblank = true) {c : Word}
    (hd : (v.cyclesToNextEvent - c).toInt ≤ 0) : advanceVideo c v = settledEnd v := by
  have ht := hs.countdownTable
  have hp : stillPositive (v.cyclesToNextEvent - c) = false := by
    rw [stillPositive_eq]; exact decide_eq_false (by omega)
  unfold Video.CountdownTable at ht
  rw [hb] at ht
  simp only [if_true] at ht
  obtain ⟨hL, hH, hD, hI⟩ := ht
  have hvl : Config.visibleLines = 160#32 := rfl
  have htl : Config.totalLines = 228#32 := rfl
  have hfl : Config.frameLength = 280896#32 := by decide
  by_cases h160 : v.scanline + 1#32 = 160#32
  · simp [advanceVideo, hp, eventVideo, hb, endVideo, matchVideo, lineVideo, endHblankVideo, rebase,
      settledEnd, hL, hH, hD, hI, hvl, hfl, h160]
  · by_cases h227 : v.scanline + 1#32 = 227#32
    · simp [advanceVideo, hp, eventVideo, hb, endVideo, matchVideo, lineVideo, endHblankVideo, rebase,
        settledEnd, hL, hH, hD, hI, hvl, htl, hfl, h227]
    · by_cases h228 : v.scanline + 1#32 = 228#32
      · simp [advanceVideo, hp, eventVideo, hb, endVideo, matchVideo, lineVideo, endHblankVideo, rebase,
          settledEnd, hL, hH, hD, hI, hvl, htl, hfl, h228]
      · simp [advanceVideo, hp, eventVideo, hb, endVideo, matchVideo, lineVideo, endHblankVideo, rebase,
          settledEnd, hL, hH, hD, hI, hvl, htl, hfl, h160, h227, h228]

/-- ADVANCE short of the budget only lowers E (40_timing.md R90). -/
theorem advanceVideo_short {v : Video} {c : Word} (hd : 0 < (v.cyclesToNextEvent - c).toInt) :
    advanceVideo c v = { v with cyclesToNextEvent := v.cyclesToNextEvent - c } := by
  have hp : stillPositive (v.cyclesToNextEvent - c) = true := by
    rw [stillPositive_eq]; exact decide_eq_true hd
  simp [advanceVideo, hp]

/-! ### Settled states stay settled -/

/-- The scanline in numbers: one further, or back to 0 after 227 (40_timing.md R95, R96). -/
theorem nextLine_toInt {l : Word} (hl : -1 ≤ l.toInt) (hu : l.toInt ≤ 227) :
    (if l + 1#32 = 228#32 then 0#32 else l + 1#32).toInt =
      if l.toInt = 227 then 0 else l.toInt + 1 := by
  have h1 : (l + 1#32).toInt = l.toInt + 1 := Word.toInt_add (by simp; omega) (by simp; omega)
  have h228 : l + 1#32 = 228#32 ↔ l.toInt = 227 := by
    constructor
    · intro h; have := congrArg BitVec.toInt h; rw [h1] at this; simp at this; omega
    · intro h; exact Word.ext_toInt (by rw [h1, h]; rfl)
  by_cases h : l.toInt = 227
  · simp [h228.mpr h, h]
  · rw [if_neg (h228.not.mpr h), h1, if_neg h]

/-- A word is a given small number exactly when its signed value is. -/
theorem Word.eq_ofInt_iff {x : Word} {k : Word} : x = k ↔ x.toInt = k.toInt :=
  ⟨congrArg _, Word.ext_toInt⟩

theorem Video.Settled.start_settled {v : Video} (hs : v.Settled) (hb : v.inHblank = false) {c : Word}
    (hd : (v.cyclesToNextEvent - c).toInt ≤ 0) : (advanceVideo c v).Settled := by
  rw [hs.start hb hd]
  have hl := hs.lineRange
  have hv := hs.vblankCountdown
  refine ⟨hl, hs.vblankFlag,
    (by decide : (1 : Int) ≤ (226#32 : Word).toInt ∧ (226#32 : Word).toInt ≤ 226),
    by simp [Video.CountdownTable], ?_, hs.preRollMatch⟩
  simp only [Video.VblankCountdown, Video.phaseOffset, hb, Bool.false_eq_true, if_false, if_true] at hv ⊢
  have hx : (v.cyclesToNextVblankIRQ - 1006#32).toInt = v.cyclesToNextVblankIRQ.toInt - 1006 := by
    apply Word.toInt_sub <;> simp <;> split at hv <;> omega
  rw [hx]
  split at hv
  · next h => rw [if_pos h]; omega
  · next h => rw [if_neg h]; omega

theorem Video.Settled.finish_settled {v : Video} (hs : v.Settled) (hb : v.inHblank = true) {c : Word}
    (hd : (v.cyclesToNextEvent - c).toInt ≤ 0) : (advanceVideo c v).Settled := by
  rw [hs.finish hb hd]
  obtain ⟨hl, hu⟩ := hs.lineRange
  have hv := hs.vblankCountdown
  have hf := hs.vblankFlag
  simp only [Video.VblankCountdown, Video.phaseOffset, hb, if_true] at hv
  have hx : (v.cyclesToNextVblankIRQ - 226#32).toInt = v.cyclesToNextVblankIRQ.toInt - 226 := by
    apply Word.toInt_sub <;> simp <;> split at hv <;> omega
  have hn := nextLine_toInt hl hu
  unfold settledEnd
  generalize (if v.scanline + 1#32 = 228#32 then 0#32 else v.scanline + 1#32) = line at hn ⊢
  have hk : ∀ k : Word, line = k ↔ line.toInt = k.toInt := fun k => Word.eq_ofInt_iff
  have h160 : line = 160#32 ↔ line.toInt = 160 := hk _
  have h227 : line = 227#32 ↔ line.toInt = 227 := hk _
  have hm1 : line = -1#32 ↔ line.toInt = -1 := hk _
  have hne : line ≠ -1#32 := by rw [Ne, hm1, hn]; split <;> omega
  refine ⟨?_, ?_, ?_, ?_, ?_, ?_⟩
  · change -1 ≤ line.toInt ∧ line.toInt ≤ 227
    rw [hn]; split <;> omega
  · change (if line = 160#32 then true else if line = 227#32 then false else v.inVblank) = true ↔
      160 ≤ line.toInt ∧ line.toInt ≤ 226
    by_cases a : line.toInt = 160
    · simp [h160.mpr a]
    · rw [if_neg (h160.not.mpr a)]
      by_cases b : line.toInt = 227
      · simp [h227.mpr b]
      · rw [if_neg (h227.not.mpr b), hf, hn] ; rw [hn] at a b; split at * <;> omega
  · exact (by decide : (1 : Int) ≤ (1006#32 : Word).toInt ∧ (1006#32 : Word).toInt ≤ 1006)
  · unfold Video.CountdownTable
    simpa using hne
  · unfold Video.VblankCountdown Video.phaseOffset
    change if 160 ≤ line.toInt then _ else _
    by_cases a : line.toInt = 160
    · simp [h160.mpr a]
    · simp only [if_neg (h160.not.mpr a), hx, Bool.false_eq_true, if_false]
      by_cases w : v.scanline.toInt = 227
      · rw [if_pos w] at hn
        rw [if_pos (by omega)] at hv
        rw [hn, if_neg (by decide)]
        omega
      · rw [if_neg w] at hn
        by_cases u : 160 ≤ v.scanline.toInt
        · rw [if_pos u] at hv
          rw [hn, if_pos (by omega)]
          omega
        · rw [if_neg u] at hv
          rw [hn, if_neg (by omega)]
          omega
  · intro h; exact absurd h hne

theorem Video.Settled.short_settled {v : Video} (hs : v.Settled) {c : Word} (hc : c.toNat < 2 ^ 31)
    (hd : 0 < (v.cyclesToNextEvent - c).toInt) : (advanceVideo c v).Settled := by
  rw [advanceVideo_short hd]
  refine ⟨hs.lineRange, hs.vblankFlag, ?_, hs.countdownTable, hs.vblankCountdown, hs.preRollMatch⟩
  have hr := hs.budgetRange
  have hc' := Word.toInt_of_lt hc
  have he : (v.cyclesToNextEvent - c).toInt = v.cyclesToNextEvent.toInt - c.toInt :=
    Word.toInt_sub (by omega) (by omega)
  refine ⟨hd, ?_⟩
  change (v.cyclesToNextEvent - c).toInt ≤ _
  rw [he]
  refine Int.le_trans (Int.sub_le_self _ (by omega)) hr.2

/-- ADVANCE with a legal operand keeps the video fields settled (10_state.md R35, R36). -/
theorem Video.Settled.advance {v : Video} (hs : v.Settled) {c : Word} (hc : c.toNat < 2 ^ 31) :
    (advanceVideo c v).Settled := by
  by_cases hd : (v.cyclesToNextEvent - c).toInt ≤ 0
  · cases hb : v.inHblank
    · exact hs.start_settled hb hd
    · exact hs.finish_settled hb hd
  · exact hs.short_settled hc (by omega)

/-- A status write touches no field the invariant reads (41_status.md R133). -/
theorem Video.Settled.writeStatus {v : Video} (hs : v.Settled) (value : Half) :
    (writeStatusVideo value v).Settled := by
  have h : ∀ ci, ({ scatterStatus value v with cyclesToNextVcounterIRQ := ci } : Video).Settled :=
    fun _ => ⟨hs.lineRange, hs.vblankFlag, hs.budgetRange, hs.countdownTable, hs.vblankCountdown,
      hs.preRollMatch⟩
  unfold writeStatusVideo
  dsimp only
  split
  · exact h _
  · exact h v.cyclesToNextVcounterIRQ

/-- The fields just after POWER_ON are settled (10_state.md R34). -/
theorem Video.reset_settled : Video.reset.Settled :=
  ⟨by decide, by decide, by decide, by simp [Video.CountdownTable, Video.reset, Config.hdrawLength],
    by simp [Video.VblankCountdown, Video.phaseOffset, Video.reset], fun _ => rfl⟩

end Sys2Proof.Machine
end

