-- ==== Sys2Proof/Laws/Outputs.lean ====
section
/-! SUPPORT. Laws of what a transaction emits and makes of the video fields, in the terms of Safety: an
event due or not, and the line it leads to. -/

namespace Sys2Proof.Machine

/-! ### Whether an event is due -/

theorem stillPositive_of_due {c : Word} {s : State} (h : EventDue c s) :
    stillPositive (s.begin.video.cyclesToNextEvent - c) = false := by
  rw [stillPositive_eq]
  exact decide_eq_false (by unfold EventDue at h; rw [State.begin_video]; omega)

theorem stillPositive_of_not_due {c : Word} {s : State} (h : ¬ EventDue c s) :
    stillPositive (s.begin.video.cyclesToNextEvent - c) = true := by
  rw [stillPositive_eq]
  exact decide_eq_true (by unfold EventDue at h; rw [State.begin_video]; omega)

/-! ### The video fields of an End-of-Hblank -/

/-- The line an End-of-Hblank leads to (40_timing.md R95, R96). -/
theorem endVideo_scanline (v : Video) :
    (endVideo v).scanline =
      if v.scanline + 1#32 = 228#32 then 0#32 else v.scanline + 1#32 := by
  unfold endVideo matchVideo lineVideo endHblankVideo Config.visibleLines Config.totalLines
  simp only
  have h1 : (228#32 - 1#32 : Word) = 227#32 := by decide
  simp only [h1]
  split
  · next h => rw [if_neg (by rw [h]; decide)]
  · split
    · next h => rw [if_neg (by rw [h]; decide)]
    · split <;> rfl

@[simp] theorem lineVideo_vcountTarget (v : Video) : (lineVideo v).vcountTarget = v.vcountTarget := by
  unfold lineVideo; repeat' split
  all_goals rfl

@[simp] theorem lineVideo_vcounterIRQEnabled (v : Video) :
    (lineVideo v).vcounterIRQEnabled = v.vcounterIRQEnabled := by
  unfold lineVideo; repeat' split
  all_goals rfl

@[simp] theorem lineVideo_hblankIRQEnabled (v : Video) :
    (lineVideo v).hblankIRQEnabled = v.hblankIRQEnabled := by
  unfold lineVideo; repeat' split
  all_goals rfl

@[simp] theorem lineVideo_vblankIRQEnabled (v : Video) :
    (lineVideo v).vblankIRQEnabled = v.vblankIRQEnabled := by
  unfold lineVideo; repeat' split
  all_goals rfl

@[simp] theorem lineVideo_inHblank (v : Video) : (lineVideo v).inHblank = v.inHblank := by
  unfold lineVideo; repeat' split
  all_goals rfl

/-- The target and the enables pass an End-of-Hblank unchanged. -/
theorem endVideo_controls (v : Video) :
    (endVideo v).vcountTarget = v.vcountTarget ∧ (endVideo v).vblankIRQEnabled = v.vblankIRQEnabled ∧
      (endVideo v).hblankIRQEnabled = v.hblankIRQEnabled ∧
      (endVideo v).vcounterIRQEnabled = v.vcounterIRQEnabled :=
  ⟨lineVideo_vcountTarget _, lineVideo_vblankIRQEnabled _, lineVideo_hblankIRQEnabled _,
    lineVideo_vcounterIRQEnabled _⟩

/-- The match flag is the comparison of the final scanline with the target (40_timing.md R97). -/
theorem endVideo_vcounterMatch (v : Video) :
    (endVideo v).vcounterMatch = decide ((endVideo v).scanline = v.vcountTarget.setWidth 32) := by
  have h : (endVideo v).vcounterMatch =
    matchesTarget (endVideo v).scanline (lineVideo (endHblankVideo v)).vcountTarget := rfl
  rw [h, lineVideo_vcountTarget]
  rfl

/-! ### The video fields after ADVANCE -/

theorem advanceVideo_of_not_due {c : Word} {s : State} (h : ¬ EventDue c s) :
    advanceVideo c s.video =
      { s.video with cyclesToNextEvent := s.video.cyclesToNextEvent - c } :=
  advanceVideo_short (by unfold EventDue at h; omega)

theorem advanceVideo_of_due {c : Word} {s : State} (hd : EventDue c s) :
    advanceVideo c s.video =
      { eventVideo (spendVideo c s.video) with
        lastEventDiff := (eventVideo (spendVideo c s.video)).cyclesToNextEvent } := by
  have hp := stillPositive_of_due hd
  simp only [State.begin_video] at hp
  simp [advanceVideo, spendVideo, hp]

/-- An event flips the phase (40_timing.md R91). -/
theorem advanceVideo_inHblank {c : Word} {s : State} (hd : EventDue c s) :
    (advanceVideo c s.video).inHblank = !s.video.inHblank := by
  rw [advanceVideo_of_due hd]
  have hs : (spendVideo c s.video).inHblank = s.video.inHblank := rfl
  cases hb : s.video.inHblank <;> simp only [eventVideo, hs, hb]
  · rfl
  · exact lineVideo_inHblank _

/-- ADVANCE leaves the target and the enables alone. -/
theorem advanceVideo_controls (c : Word) (v : Video) :
    (advanceVideo c v).vcountTarget = v.vcountTarget ∧
      (advanceVideo c v).vblankIRQEnabled = v.vblankIRQEnabled ∧
      (advanceVideo c v).hblankIRQEnabled = v.hblankIRQEnabled ∧
      (advanceVideo c v).vcounterIRQEnabled = v.vcounterIRQEnabled := by
  unfold advanceVideo eventVideo
  dsimp only
  repeat' split
  · exact ⟨rfl, rfl, rfl, rfl⟩
  · exact endVideo_controls _
  · exact ⟨rfl, rfl, rfl, rfl⟩

/-! ### The outputs of ADVANCE -/

/-- The outputs of ADVANCE with an event due, from the state before it (40_timing.md R93, R96 to R98). -/
theorem advanceState_outputs_due {c : Word} {s : State} (hd : EventDue c s) :
    (advanceState c s.begin).outputs =
      if s.video.inHblank = false then
        (if s.video.scanline.toInt < 160 then [.dmaHblank] else []) ++
          (if s.video.hblankIRQEnabled then [.irq .hblank] else [])
      else
        (if nextLine s = 160#32 then
          vblankOutputs s.pacingAnswer s.renderer s.video.vblankIRQEnabled else []) ++
        (if decide (nextLine s = s.video.vcountTarget.setWidth 32) && s.video.vcounterIRQEnabled then
          [.irq .vcounter] else []) ++
        if (nextLine s).toInt < 160 then
          .paceQuery :: if s.pacingAnswer then [.rDrawScanline s.renderer (nextLine s)] else []
        else [] := by
  rw [advanceState_outputs_of_due (stillPositive_of_due hd)]
  cases hb : s.video.inHblank
  · simp [eventOutputs, spendVideo, hb, startOutputs, visible_eq, State.begin]
  · have hb' : (spendVideo c s.begin.video).inHblank = true := hb
    have hn : (endVideo (rebase (spendVideo c s.begin.video))).scanline = nextLine s :=
      endVideo_scanline _
    have hm := endVideo_vcounterMatch (rebase (spendVideo c s.begin.video))
    rw [hn] at hm
    have hc := endVideo_controls (rebase (spendVideo c s.begin.video))
    unfold eventOutputs endOutputs
    have e1 : s.begin.pacingAnswer = s.pacingAnswer := rfl
    have e2 : (rebase (spendVideo c s.begin.video)).vcounterIRQEnabled = s.video.vcounterIRQEnabled := rfl
    have e3 : (rebase (spendVideo c s.begin.video)).vblankIRQEnabled = s.video.vblankIRQEnabled := rfl
    have e4 : (rebase (spendVideo c s.begin.video)).vcountTarget = s.video.vcountTarget := rfl
    rw [if_pos hb', hn, hm, hc.2.1, hc.2.2.2, e1, e2, e3, e4]
    simp [visible_eq, Config.visibleLines]
    rfl

theorem mem_vblankOutputs {active enabled : Bool} {h : RendererHandle} {ev : OutputEvent} :
    ev ∈ vblankOutputs active h enabled ↔
      ev = .paceQuery ∨ (active = true ∧ ev = .rFinishFrame h) ∨ ev = .dmaVblank ∨
        (enabled = true ∧ ev = .irq .vblank) ∨ ev = .paceFramePosted := by
  simp [vblankOutputs]

/-- Which events an ADVANCE with an event due emits. -/
theorem mem_advanceState_outputs_due {c : Word} {s : State} (hd : EventDue c s) {ev : OutputEvent} :
    ev ∈ (advanceState c s.begin).outputs ↔
      (s.video.inHblank = false ∧
        ((s.video.scanline.toInt < 160 ∧ ev = .dmaHblank) ∨
          (s.video.hblankIRQEnabled = true ∧ ev = .irq .hblank))) ∨
      (s.video.inHblank = true ∧
        ((nextLine s = 160#32 ∧
            ev ∈ vblankOutputs s.pacingAnswer s.renderer s.video.vblankIRQEnabled) ∨
          (nextLine s = s.video.vcountTarget.setWidth 32 ∧ s.video.vcounterIRQEnabled = true ∧
            ev = .irq .vcounter) ∨
          ((nextLine s).toInt < 160 ∧
            (ev = .paceQuery ∨
              (s.pacingAnswer = true ∧ ev = .rDrawScanline s.renderer (nextLine s)))))) := by
  rw [advanceState_outputs_due hd]
  cases hb : s.video.inHblank
  · simp
  · simp [and_assoc]

/-! ### Any transaction -/

/-- The video fields after a transaction. -/
theorem exec_video {i : Instr} {s t : State} (h : exec i s = .next t) :
    t.video =
      match i with
      | .advance c     => advanceVideo c s.video
      | .writeStatus v => writeStatusVideo v s.video
      | .powerOn       => Video.reset
      | .readStatus | .writeVideoReg _ _ | .attachRenderer _ | .teardown => s.video := by
  cases i with
  | advance c => obtain ⟨hl, rfl⟩ := exec_advance_eq_next.mp h; simp
  | writeStatus v => obtain ⟨hl, rfl⟩ := exec_writeStatus_eq_next.mp h; rfl
  | readStatus => obtain ⟨hl, rfl⟩ := exec_readStatus_eq_next.mp h; rfl
  | writeVideoReg a v => obtain ⟨hl, _, rfl⟩ := exec_writeVideoReg_eq_next.mp h; simp
  | attachRenderer h' => obtain ⟨hl, rfl⟩ := exec_attachRenderer_eq_next.mp h; rfl
  | powerOn => obtain ⟨hl, rfl⟩ := exec_powerOn_eq_next.mp h; rfl
  | teardown => obtain ⟨hl, rfl⟩ := exec_teardown_eq_next.mp h; rfl

/-- A transaction is an ADVANCE with an event due, or it emits renderer association and register events
only. -/
theorem exec_outputs_cases {i : Instr} {s t : State} (h : exec i s = .next t) :
    (∃ c, i = .advance c ∧ s.live = true ∧ EventDue c s ∧
      t.outputs = (advanceState c s.begin).outputs) ∨
    ((¬ ∃ c, i = .advance c ∧ EventDue c s) ∧
      ∀ ev ∈ t.outputs, (∃ h a v, ev = .rWriteReg h a v) ∨
        ∃ h, ev = .rInit h ∨ ev = .rDeinit h ∨ ev = .rBind h) := by
  cases i with
  | advance c =>
    obtain ⟨hl, rfl⟩ := exec_advance_eq_next.mp h
    by_cases hd : EventDue c s
    · exact .inl ⟨c, rfl, hl, hd, rfl⟩
    · refine .inr ⟨by rintro ⟨d, hc, hd'⟩; cases hc; exact hd hd', ?_⟩
      rw [State.answer_outputs, advanceState_outputs_of_positive (stillPositive_of_not_due hd)]
      simp [State.begin]
  | writeStatus v => obtain ⟨hl, rfl⟩ := exec_writeStatus_eq_next.mp h; exact .inr ⟨by simp, by simp⟩
  | readStatus => obtain ⟨hl, rfl⟩ := exec_readStatus_eq_next.mp h; exact .inr ⟨by simp, by simp⟩
  | writeVideoReg a v =>
    obtain ⟨hl, _, rfl⟩ := exec_writeVideoReg_eq_next.mp h; exact .inr ⟨by simp, by simp⟩
  | attachRenderer h' =>
    obtain ⟨hl, rfl⟩ := exec_attachRenderer_eq_next.mp h; exact .inr ⟨by simp, by simp⟩
  | powerOn => obtain ⟨hl, rfl⟩ := exec_powerOn_eq_next.mp h; exact .inr ⟨by simp, by simp⟩
  | teardown => obtain ⟨hl, rfl⟩ := exec_teardown_eq_next.mp h; exact .inr ⟨by simp, by simp⟩

/-- What a status write leaves of the video fields (41_status.md R130, R133). -/
theorem writeStatusVideo_eq (v : Half) (w : Video) :
    writeStatusVideo v w =
      { w with
        vblankIRQEnabled := v.getLsbD 3, hblankIRQEnabled := v.getLsbD 4
        vcounterIRQEnabled := v.getLsbD 5, vcountTarget := statusTarget v
        cyclesToNextVcounterIRQ := (writeStatusVideo v w).cyclesToNextVcounterIRQ } := by
  unfold writeStatusVideo scatterStatus recomputeVcounter
  dsimp only
  split <;> rfl

end Sys2Proof.Machine
end

