-- ==== Sys2Proof/Laws/PerInstr.lean ====
section
/-! SUPPORT. Laws made per instruction: the family Roundtrip, decoding undoes encoding. -/

namespace Sys2Proof.Laws.Roundtrip

/-- Decoding the command word of a well-formed transaction gives it back. -/
def Statement (i : Instr) : Prop := i.WellFormed → decode (encode i) = .instr i

/-- The bits of a field of an encoded word, computed from its number. -/
theorem field_encode (i : Instr) (hi lo : Nat) :
    field (encode i) hi lo = i.wordNat / 2 ^ lo % 2 ^ (hi - lo + 1) := by
  rw [field, encode_toNat]

theorem advance (cycles : Word) : Statement (.advance cycles) := by
  intro h
  have hc : cycles.toNat < 2 ^ 31 := of_decide_eq_true h
  have hop : field (encode (.advance cycles)) 63 61 = 0 := by
    rw [field_encode, Instr.wordNat]; omega
  have hz : field (encode (.advance cycles)) 60 31 = 0 := by
    rw [field_encode, Instr.wordNat]; omega
  have hv : field (encode (.advance cycles)) 30 0 = cycles.toNat := by
    rw [field_encode, Instr.wordNat]; omega
  simp [decode_of_op hop, hz, hv]

theorem writeStatus (value : Half) : Statement (.writeStatus value) := by
  intro _
  have hop : field (encode (.writeStatus value)) 63 61 = 1 := by
    rw [field_encode, Instr.wordNat]; omega
  have hz : field (encode (.writeStatus value)) 60 16 = 0 := by
    rw [field_encode, Instr.wordNat]; omega
  have hv : field (encode (.writeStatus value)) 15 0 = value.toNat := by
    rw [field_encode, Instr.wordNat]; omega
  simp [decode_of_op hop, hz, hv]

theorem readStatus : Statement .readStatus := fun _ => by decide

theorem writeVideoReg (addr : Addr) (value : Half) : Statement (.writeVideoReg addr value) := by
  intro _
  have hop : field (encode (.writeVideoReg addr value)) 63 61 = 3 := by
    rw [field_encode, Instr.wordNat]; omega
  have hz : field (encode (.writeVideoReg addr value)) 60 48 = 0 := by
    rw [field_encode, Instr.wordNat]; omega
  have ha : field (encode (.writeVideoReg addr value)) 47 16 = addr.toNat := by
    rw [field_encode, Instr.wordNat]; omega
  have hv : field (encode (.writeVideoReg addr value)) 15 0 = value.toNat := by
    rw [field_encode, Instr.wordNat]; omega
  simp [decode_of_op hop, hz, ha, hv]

theorem attachRenderer (handle : RendererHandle) : Statement (.attachRenderer handle) := by
  intro _
  have hop : field (encode (.attachRenderer handle)) 63 61 = 4 := by
    rw [field_encode, Instr.wordNat]; omega
  have hz : field (encode (.attachRenderer handle)) 60 32 = 0 := by
    rw [field_encode, Instr.wordNat]; omega
  have hv : field (encode (.attachRenderer handle)) 31 0 = handle.toNat := by
    rw [field_encode, Instr.wordNat]; omega
  simp [decode_of_op hop, hz, hv]

theorem powerOn : Statement .powerOn := fun _ => by decide

theorem teardown : Statement .teardown := fun _ => by decide

end Sys2Proof.Laws.Roundtrip
end

