-- ==== Sys2Proof/Laws/Step.lean ====
section
/-! SUPPORT. Laws of the step: what it can do, request by request. -/

namespace Sys2Proof.Machine

theorem step_of_no_request {s : State} (h : s.requests = []) : step s = .next s := by
  simp [step, fetch, h, idle]

/-- One step on a request: refused by its resolution, or performed on the state without it. -/
theorem step_of_request {s : State} {r : HostRequest} {rest : List HostRequest}
    (h : s.requests = r :: rest) :
    step s =
      match resolve s.params r with
      | .error reason => .refused reason
      | .ok a         => perform a { s with requests := rest } := by
  cases s
  cases h
  rfl

/-- What a step that answers a next state did. -/
theorem step_cases {s t : State} (h : step s = .next t) :
    (s.requests = [] ∧ t = s) ∨
      ∃ r rest a, s.requests = r :: rest ∧ resolve s.params r = .ok a ∧
        perform a { s with requests := rest } = .next t := by
  cases hq : s.requests with
  | nil =>
    rw [step_of_no_request hq] at h
    exact .inl ⟨rfl, (Host.Outcome.next.inj h).symm⟩
  | cons r rest =>
    rw [step_of_request hq] at h
    cases hr : resolve s.params r with
    | error e => simp [hr] at h
    | ok a => exact .inr ⟨r, rest, a, rfl, hr, by simpa [hr] using h⟩

/-- A command word that decodes to a transaction resolves to it (30_encoding.md R71). -/
theorem resolve_command {p : Params} {w : CommandWord} {i : Instr} (h : decode w = .instr i) :
    resolve p (.command w) = .ok (.transaction i) := by
  simp [resolve, resolveCommand, h]

/-- The transactions a request can resolve to: those a command word names, and those the register I/O
surface stands for (20_memory.md R55). -/
theorem resolve_transaction {p : Params} {r : HostRequest} {i : Instr}
    (h : resolve p r = .ok (.transaction i)) :
    (∃ w, r = .command w ∧ decode w = .instr i) ∨
      (∃ v, i = .writeStatus v) ∨ (∃ a v, i = .writeVideoReg a v) ∨ i = .readStatus := by
  cases r with
  | command w =>
    refine .inl ⟨w, rfl, ?_⟩
    cases hd : decode w <;> simp_all [resolve, resolveCommand]
  | busWrite16 a v =>
    simp only [resolve, resolveBusWrite16] at h
    split at h
    · simp at h; exact .inr (.inl ⟨v, h.symm⟩)
    · split at h
      · simp at h; exact .inr (.inr (.inl ⟨a, v, h.symm⟩))
      · simp at h
  | busRead16 a =>
    simp only [resolve, resolveBusRead16] at h
    split at h
    · simp at h; exact .inr (.inr (.inr h.symm))
    · simp at h
  | _ => simp [resolve] at h

/-! ### Region bytes under the host's accesses (20_memory.md R54) -/

/-- Every region byte after a host write. -/
theorem regionByte_setRegion_write {s : State} {r : Region} (hm : (s.region r).wf) (off : Nat) (b : Byte)
    (q : Region) (x : Nat) :
    (s.setRegion r ((s.region r).write off b)).regionByte q x =
      if q = r ∧ x = off then b else s.regionByte q x := by
  unfold State.regionByte
  by_cases h : q = r
  · subst h
    simp [Memory.read_write hm]
  · simp [State.setRegion_region_ne s _ h, h]

/-- The guard passed, a host write answers the state with that byte written. -/
theorem hostWrite_eq_next {r : Region} {off : Nat} {b : Byte} {s t : State} :
    hostWrite r off b s = .next t ↔ s.live = true ∧ off < regionSize s.params r ∧
      t = s.begin.setRegion r ((s.region r).write off b) := by
  simp [hostWrite, whenOffset_eq_next]

theorem hostRead_eq_next {r : Region} {off : Nat} {s t : State} :
    hostRead r off s = .next t ↔ s.live = true ∧ off < regionSize s.params r ∧
      t = s.begin.answer (.memoryByte (s.regionByte r off)) := by
  simp [hostRead, whenOffset_eq_next, State.regionByte]

end Sys2Proof.Machine
end

