-- ==== Sys2Proof/Tests/Slice0.lean ====
section
/-! SUPPORT. Tests of the model against vectors of spec/95_test_vectors.md, and one witness for the
hypotheses of every obligation that has some. -/

namespace Sys2Proof.Tests
open Sys2Proof Sys2Proof.Machine

/-! ### WellFormed refuses what no command word carries (30_encoding.md R74) -/

theorem test_wellFormed_refuses_2_pow_31 : ¬ (Instr.advance 0x80000000#32).WellFormed := by decide
theorem test_wellFormed_admits_2_pow_31_sub_1 : (Instr.advance 0x7FFFFFFF#32).WellFormed := by decide

/-! ### Decoding of words written out from the table of R70 (vectors V9a to V9r) -/

theorem test_decode_advance : decode 0x00000000000003EE#64 = .instr (.advance 1006#32) := by decide
theorem test_decode_writeStatus : decode 0x200000000000FFFF#64 = .instr (.writeStatus 0xFFFF#16) := by
  decide
theorem test_decode_readStatus : decode 0x4000000000000000#64 = .instr .readStatus := by decide
theorem test_decode_writeVideoReg :
    decode 0x6000040000081F00#64 = .instr (.writeVideoReg 0x04000008#32 0x1F00#16) := by decide
theorem test_decode_attachRenderer :
    decode 0x80000000FFFFFFFF#64 = .instr (.attachRenderer 4294967295#32) := by decide
theorem test_decode_powerOn : decode 0xA000000000000000#64 = .instr .powerOn := by decide
theorem test_decode_teardown : decode 0xC000000000000000#64 = .instr .teardown := by decide

/-- Each must-be-zero field, at its lowest bit (V9c, V9f, V9h, V9j, V9l, V9n) and at bit 60 (V9d, V9p). -/
theorem test_decode_mbz :
    [0x0000000080000000#64, 0x1000000000000000#64, 0x2000000000010000#64, 0x4000000000000001#64,
      0x6001000000000000#64, 0x8000000100000000#64, 0xA000000000000001#64,
      0xD000000000000000#64].map decode = List.replicate 8 (.invalid .mbzNonZero) := by decide

/-- The op is checked before the must-be-zero bits (V9q, V9r). -/
theorem test_decode_reserved :
    decode 0xE000000000000000#64 = .invalid .reservedOp ∧
      decode 0xFFFFFFFFFFFFFFFF#64 = .invalid .reservedOp := by decide

/-- A word longer than 64 bits is none. -/
theorem test_decodeTableWord :
    decodeTableWord 64 0x2000000000000F20 = some (.writeStatus 0x0F20#16) ∧
      decodeTableWord 64 0xE000000000000000 = none ∧ decodeTableWord 64 (2 ^ 64) = none := by decide

/-- No word belongs to two rows (30_encoding.md R71): some bit that both masks fix differs. -/
theorem test_rows_disjoint :
    opcodeTable.Pairwise fun r q => r.value &&& q.mask ≠ q.value &&& r.mask := by decide

/-- Program P1's first words (95_test_vectors.md part 3). -/
theorem test_assemble :
    assemble Params.default [.poweron, .stat 1 1 0 0, .attach 7, .line] =
      .ok [0xA000000000000000#64, 0x2000000000000018#64, 0x8000000000000007#64,
        0x00000000000003EE#64, 0x00000000000000E2#64] := by decide

theorem test_assemble_refuses :
    (AsmLine.advance (2 ^ 31)).expand Params.default = .error .operandTooLarge ∧
      (AsmLine.busw16 0x04000100 1).expand Params.default = .error .notThisBlock := by decide

/-! ### States built from the closed forms of 10_state.md R36 -/

/-- The video fields of a settled state of line `line` in the first frame, with budget `e`: the table of
R36, VI and CI falling from zero by D at each event, and VI a frame from line 160 on. -/
def videoAt (line : Int) (hblank : Bool) (e : Nat) : Video :=
  let down : Int := -(line + 1) * 1232 - if hblank then 1006 else 0
  let vi : Int := if 160 ≤ line then down + 161 * 1232 + 280896 else down
  let post : Bool := decide (0 ≤ line)
  { Video.reset with
    scanline                   := BitVec.ofInt 32 line
    inHblank                   := hblank
    inVblank                   := decide (160 ≤ line ∧ line ≤ 226)
    vcounterMatch              := decide (line = 0)
    cyclesToNextEvent          := BitVec.ofNat 32 e
    cyclesSinceLastHblankStart := if hblank then 0#32 else if post then -226#32 else 0#32
    cyclesToNextHblankStart    := if hblank then 1232#32 else 1006#32
    cyclesToNextHblankIRQ      := if hblank then 1232#32 else if post then 1006#32 else 0#32
    cyclesToNextVblankIRQ      := BitVec.ofInt 32 vi
    cyclesToNextVcounterIRQ    := BitVec.ofInt 32 down
    lastEventDiff              := if hblank then 226#32 else 1006#32 }

/-- `HD(s)` of 95_test_vectors.md, every pacing answer true. -/
def hd (line : Int) : State :=
  { State.reset with video := videoAt line false 1006, pacingAnswers := [true, true] }

/-- `HB(s)` of 95_test_vectors.md, every pacing answer true. -/
def hb (line : Int) : State :=
  { State.reset with video := videoAt line true 226, pacingAnswers := [true, true] }

/-- The same state with the enables and the target as a status write leaves them, CI aside. -/
def State.withControls (s : State) (ve he ce : Bool) (target : BitVec 8) : State :=
  { s with
    video := { s.video with
      vblankIRQEnabled := ve, hblankIRQEnabled := he, vcounterIRQEnabled := ce
      vcountTarget := target } }

/-- The outputs and the result of a transaction. -/
def answers (i : Instr) (s : State) : Option (List OutputEvent × Result) :=
  (nextState (exec i s)).map fun t => (t.outputs, t.result)

/-- One field of the state after a transaction. -/
def after {α : Type} (i : Instr) (s : State) (f : Video → α) : Option α :=
  (nextState (exec i s)).map fun t => f t.video

/-! ### ADVANCE -/

/-- V1g: the largest operand; one event, the excess lost, and the fields of V1c. -/
theorem test_advance_overshoot :
    answers (.advance 2147483647#32) State.reset = some ([.dmaHblank], .budget 226#32) ∧
      after (.advance 2147483647#32) State.reset id = some (videoAt (-1) true 226) := by decide

/-- V3c: into line 160 with a match and pacing answer true; CI 1458 becomes 282128. -/
theorem test_advance_into_vblank :
    let s := State.withControls (hb 159) true false true 160#8
    let s := { s with video := { s.video with cyclesToNextVcounterIRQ := 1458#32 } }
    answers (.advance 226#32) s =
        some ([.paceQuery, .rFinishFrame 0#32, .dmaVblank, .irq .vblank, .paceFramePosted,
          .irq .vcounter], .budget 1006#32) ∧
      after (.advance 226#32) s (fun v =>
        (v.scanline, v.inVblank, v.vcounterMatch, v.cyclesToNextVblankIRQ,
          v.cyclesToNextVcounterIRQ)) = some (160#32, true, true, 280896#32, 282128#32) := by decide

/-! ### WRITE_STATUS -/

/-- V4d and V4h: targets before the line, in Hdraw. -/
theorem test_writeStatus_hdraw :
    after (.writeStatus 0x0A20#16) (hd 200) (·.cyclesToNextVcounterIRQ) = some 48048#32 ∧
      after (.writeStatus 0x0020#16) (hd 227) (·.cyclesToNextVcounterIRQ) = some 2464#32 := by decide

/-- V4k and V4m: in Hblank, equal to E adds no frame, below E adds one. -/
theorem test_writeStatus_hblank :
    after (.writeStatus 0x0920#16) (hb 10) (·.cyclesToNextVcounterIRQ) = some 226#32 ∧
      after (.writeStatus 0x0820#16) { hb 10 with video := videoAt 10 true 100 }
        (·.cyclesToNextVcounterIRQ) = some 279890#32 := by decide

/-! ### READ_STATUS -/

/-- V5g and V5i. -/
theorem test_readStatus :
    let s := State.withControls (hb 160) false false false 160#8
    answers .readStatus { s with video := { s.video with vcounterMatch := true } } =
        some ([], .statusValue 0x0007#16) ∧
      answers .readStatus (hd 227) = some ([], .statusValue 0x0000#16) := by decide

/-! ### WRITE_VIDEO_REG -/

/-- V6a: the dummy renderer answers its input. -/
theorem test_writeVideoReg_dummy :
    answers (.writeVideoReg 0x04000000#32 0x0403#16) State.reset =
      some ([.rWriteReg 0#32 0x04000000#32 0x0403#16], .storedValue 0x0403#16) := by decide

/-- V6b and V6c: a real renderer's answer, and the status address refused. -/
theorem test_writeVideoReg_real :
    let s := { State.reset with renderer := 7#32, rendererAnswers := [0x1234#16] }
    answers (.writeVideoReg 0x04000008#32 0x1F00#16) s =
        some ([.rWriteReg 7#32 0x04000008#32 0x1F00#16], .storedValue 0x1234#16) ∧
      refusalOf (exec (.writeVideoReg 0x04000004#32 0x0018#16) s) = some .statusViaPassthrough := by
  decide

/-! ### ATTACH_RENDERER, POWER_ON, TEARDOWN -/

/-- W7 and V7a. -/
theorem test_attachRenderer :
    answers (.attachRenderer 7#32) State.reset =
        some ([.rDeinit 0#32, .rBind 7#32, .rInit 7#32], .noResult) ∧
      answers (.attachRenderer 7#32) { State.reset with renderer := 7#32 } =
        some ([.rDeinit 7#32, .rBind 7#32, .rInit 7#32], .noResult) := by decide

/-- V8a and V8b. -/
theorem test_powerOn :
    nextState (exec .powerOn { hb 159 with live := false, pacingAnswers := [] }) = some State.reset ∧
      refusalOf (exec .powerOn State.reset) = some .alreadyLive := by decide

/-- V8c and V8d. -/
theorem test_teardown :
    let s := { hd 2 with renderer := 7#32 }
    answers .teardown s = some ([.rDeinit 7#32, .rBind 0#32, .rInit 0#32], .noResult) ∧
      (nextState (exec .teardown s)).map (fun t => refusalOf (exec .readStatus t)) =
        some (some .notLive) := by decide

/-! ### The host's requests -/

def ask (s : State) (r : HostRequest) : State := { s with requests := [r] }

/-- V10c, V10e and V10f, and the boundaries of the default window of video registers. -/
theorem test_bus :
    refusalOf (step (ask State.reset (.busWrite16 0x04000100#32 1#16))) = some .notThisBlock ∧
      refusalOf (step (ask State.reset (.busWrite16 0x04000057#32 1#16))) = some .notThisBlock ∧
      (nextState (step (ask State.reset (.busWrite16 0x04000056#32 1#16)))).map (·.result) =
        some (.storedValue 1#16) ∧
      refusalOf (step (ask State.reset (.busRead16 0x04000006#32))) = some .readNotInSource ∧
      refusalOf (step (ask State.reset (.busWrite8 0x04000004#32 0#8))) = some .widthNotInSource := by
  decide

/-- V10h and V10i: a byte written reads back; writing the fill byte unlists it; the end of the region. -/
theorem test_memory :
    let w := step (ask State.reset (.memWrite .vram 0x10 0xAB#8))
    (nextState w).map (·.vram) = some [(0x10, 0xAB#8)] ∧
      ((nextState w).bind fun t => nextState (step (ask t (.memRead .vram 0x10)))).map (·.result) =
        some (.memoryByte 0xAB#8) ∧
      ((nextState w).bind fun t => nextState (step (ask t (.memWrite .vram 0x10 0#8)))).map (·.vram) =
        some [] ∧
      refusalOf (step (ask State.reset (.memRead .vram 0x18000))) = some .badOffset ∧
      (nextState (step (ask State.reset (.memRead .vram 0x17FFF)))).map (·.result) =
        some (.memoryByte 0#8) := by decide

/-- A table word laid where the step fetches is the next transaction to run. -/
theorem test_withFetchWord :
    (nextState (step (State.reset.withFetchWord 64 0x00000000000001F4))).map (·.result) =
      some (.budget 506#32) := by decide

/-! ### Witnesses: the invariant -/

/-- A state like the state after reset, but for settled video fields and the pacing answers. -/
theorem inv_of_settled {v : Video} (h : v.Settled) (answers : List Bool) :
    ({ State.reset with video := v, pacingAnswers := answers } : State).Inv :=
  ⟨fun _ => h, fun hl => Bool.noConfusion hl, fun r => by cases r <;> simp [State.region, State.reset, Memory.wf],
    fun r => by cases r <;> simp [State.region, State.reset]⟩

theorem settled_hb_pre : (videoAt (-1) true 226).Settled :=
  ⟨by decide, by decide, by decide, by unfold Video.CountdownTable; decide,
    by unfold Video.VblankCountdown; decide, by decide⟩
theorem settled_hd_0 : (videoAt 0 false 1006).Settled :=
  ⟨by decide, by decide, by decide, by unfold Video.CountdownTable; decide,
    by unfold Video.VblankCountdown; decide, by decide⟩
theorem settled_hd_10 : (videoAt 10 false 1006).Settled :=
  ⟨by decide, by decide, by decide, by unfold Video.CountdownTable; decide,
    by unfold Video.VblankCountdown; decide, by decide⟩
theorem settled_hb_10 : (videoAt 10 true 226).Settled :=
  ⟨by decide, by decide, by decide, by unfold Video.CountdownTable; decide,
    by unfold Video.VblankCountdown; decide, by decide⟩
theorem settled_hd_159 : (videoAt 159 false 1006).Settled :=
  ⟨by decide, by decide, by decide, by unfold Video.CountdownTable; decide,
    by unfold Video.VblankCountdown; decide, by decide⟩
theorem settled_hb_159 : (videoAt 159 true 226).Settled :=
  ⟨by decide, by decide, by decide, by unfold Video.CountdownTable; decide,
    by unfold Video.VblankCountdown; decide, by decide⟩
theorem settled_hd_160 : (videoAt 160 false 1006).Settled :=
  ⟨by decide, by decide, by decide, by unfold Video.CountdownTable; decide,
    by unfold Video.VblankCountdown; decide, by decide⟩
theorem settled_hd_222 : (videoAt 222 false 1006).Settled :=
  ⟨by decide, by decide, by decide, by unfold Video.CountdownTable; decide,
    by unfold Video.VblankCountdown; decide, by decide⟩
theorem settled_hb_226 : (videoAt 226 true 226).Settled :=
  ⟨by decide, by decide, by decide, by unfold Video.CountdownTable; decide,
    by unfold Video.VblankCountdown; decide, by decide⟩
theorem settled_hd_227 : (videoAt 227 false 1006).Settled :=
  ⟨by decide, by decide, by decide, by unfold Video.CountdownTable; decide,
    by unfold Video.VblankCountdown; decide, by decide⟩
theorem settled_hb_227 : (videoAt 227 true 226).Settled :=
  ⟨by decide, by decide, by decide, by unfold Video.CountdownTable; decide,
    by unfold Video.VblankCountdown; decide, by decide⟩

/-- A status write keeps the invariant of such a state, so the enables and the target are free in it. -/
theorem settled_withControls {v : Video} (h : v.Settled) (ve he ce : Bool) (target : BitVec 8) :
    ({ v with vblankIRQEnabled := ve, hblankIRQEnabled := he, vcounterIRQEnabled := ce
              vcountTarget := target } : Video).Settled :=
  ⟨h.lineRange, h.vblankFlag, h.budgetRange, h.countdownTable, h.vblankCountdown, h.preRollMatch⟩

theorem inv_hb_pre : (hb (-1)).Inv := inv_of_settled settled_hb_pre _
theorem inv_hd_0 : (hd 0).Inv := inv_of_settled settled_hd_0 _
theorem inv_hd_10 : (hd 10).Inv := inv_of_settled settled_hd_10 _
theorem inv_hb_10 : (hb 10).Inv := inv_of_settled settled_hb_10 _
theorem inv_reset : State.reset.Inv := inv_of_settled Video.reset_settled _

/-- The request of a state replaced: the invariant does not read it. -/
theorem inv_ask {s : State} (h : s.Inv) (r : HostRequest) : (ask s r).Inv :=
  ⟨h.settled, h.dormant,
    fun q => by cases q; exacts [h.canonical .vram, h.canonical .palette, h.canonical .oam],
    fun q => by cases q; exacts [h.inside .vram, h.inside .palette, h.inside .oam]⟩

/-! ### Witnesses: encoding and the step -/

theorem witness_DecodeAndEncodeAgree :
    decode (encode (.writeVideoReg 0xFFFFFFFF#32 0xFFFF#16)) =
      .instr (.writeVideoReg 0xFFFFFFFF#32 0xFFFF#16) := by decide

theorem witness_TableRowsSelectWhatDecodes :
    decode 0x000000007FFFFFFF#64 = .instr (.advance 0x7FFFFFFF#32) ∧
      (Instr.row (.advance 0#32)).selects 0x000000007FFFFFFF#64 := by
  unfold OpcodeRow.selects; decide

theorem witness_InvalidWordsAreNamed :
    decode 0x0000000080000000#64 = .invalid .mbzNonZero ∧
      decode 0xFFFFFFFFFFFFFFFF#64 = .invalid .reservedOp := by decide

/-- The largest operands that fit, the smallest that do not, and a listing that assembles. -/
theorem witness_AssembledLinesDecodeBack :
    0x7FFFFFFF < 2 ^ 31 ∧ 0xFFFF < 2 ^ 16 ∧ 0xFFFFFFFF < 2 ^ 32 ∧
      AsmLine.expand Params.default (.advance (2 ^ 31)) = .error .operandTooLarge ∧
      AsmLine.expand Params.default (.wrstat (2 ^ 16)) = .error .operandTooLarge ∧
      AsmLine.expand Params.default (.wrvreg (2 ^ 32) 0) = .error .operandTooLarge ∧
      AsmLine.expand Params.default (.wrvreg 0 (2 ^ 16)) = .error .operandTooLarge ∧
      AsmLine.expand Params.default (.attach (2 ^ 32)) = .error .operandTooLarge ∧
      assemble Params.default [.advance 0x7FFFFFFF, .wrvreg 0xFFFFFFFF 0xFFFF, .attach 0xFFFFFFFF] =
        .ok [0x000000007FFFFFFF#64, 0x6000FFFFFFFFFFFF#64, 0x80000000FFFFFFFF#64] := by decide

/-- The `stat` clause at its largest operands. -/
theorem witness_PseudoInstructionsExpand :
    1 ≤ 1 ∧ 255 < 256 ∧
      AsmLine.expand Params.default (.stat 1 1 1 255) = .ok [.writeStatus 0xFF38#16] := by decide

theorem witness_StepRunsDecodedTransaction :
    (ask State.reset (.command 0x00000000000003EE#64)).requests =
        [.command 0x00000000000003EE#64] ∧
      decode 0x00000000000003EE#64 = .instr (.advance 1006#32) := by decide

theorem witness_StepRefusesInvalidWords :
    (ask State.reset (.command 0xE000000000000000#64)).requests =
        [.command 0xE000000000000000#64] ∧
      decode 0xE000000000000000#64 = .invalid .reservedOp ∧
      (ask State.reset (.command 0xD000000000000000#64)).requests =
        [.command 0xD000000000000000#64] ∧
      decode 0xD000000000000000#64 = .invalid .mbzNonZero := by decide

/-- Both kinds of access, at the status address and at the two ends of the default window. -/
theorem witness_StepDecodesBusAccesses :
    (ask State.reset (.busWrite16 0x04000000#32 1#16)).requests =
        [.busWrite16 0x04000000#32 1#16] ∧
      (nextState (step (ask State.reset (.busWrite16 0x04000000#32 1#16)))).map (·.result) =
        some (.storedValue 1#16) ∧
      (nextState (step (ask State.reset (.busWrite16 0x04000004#32 0x18#16)))).map
        (·.video.hblankIRQEnabled) = some true ∧
      (nextState (step (ask State.reset (.busRead16 0x04000004#32)))).map (·.result) =
        some (.statusValue 0#16) := by decide

theorem witness_StepRefusesOtherWidths :
    (ask State.reset (.busRead32 0x04000004#32)).requests = [.busRead32 0x04000004#32] ∧
      (ask State.reset (.busWrite32 0x04000004#32 0#32)).requests =
        [.busWrite32 0x04000004#32 0#32] ∧
      (ask State.reset (.busRead8 0x04000004#32)).requests = [.busRead8 0x04000004#32] ∧
      (ask State.reset (.busWrite8 0x04000004#32 0#8)).requests = [.busWrite8 0x04000004#32 0#8] := by
  decide

theorem witness_StepIdlesWithoutRequest : State.reset.requests = [] := rfl

theorem witness_StepKeepsParamsAndTakesOneRequest :
    ∃ t, step (ask State.reset (.memWrite .oam 0 1#8)) = .next t := ⟨_, rfl⟩

/-- The last offset of a region. -/
theorem witness_HostReadAnswersTheByte :
    State.reset.live = true ∧ 0x3FF < regionSize State.reset.params .oam ∧
      (ask State.reset (.memRead .oam 0x3FF)).requests = [.memRead .oam 0x3FF] := by decide

theorem witness_HostWriteStoresOneByte :
    State.reset.live = true ∧ 0x3FF < regionSize State.reset.params .palette ∧
      (State.reset.region .palette).wf ∧
      (ask State.reset (.memWrite .palette 0x3FF 0xAB#8)).requests =
        [.memWrite .palette 0x3FF 0xAB#8] := by decide

theorem witness_RegionsLiveFromPowerOnToTeardown :
    (∃ t, exec .powerOn State.unpowered = .next t ∧ 0x17FFF < regionSize t.params .vram) ∧
      ∃ t, exec .teardown State.reset = .next t := ⟨⟨_, rfl, by decide⟩, _, rfl⟩

/-- Both clauses: a block that is not live, and the first offset past the region. -/
theorem witness_HostAccessRefusals :
    (ask State.unpowered (.memRead .vram 0)).requests = [.memRead .vram 0] ∧
      State.unpowered.live = false ∧
      (ask State.reset (.memWrite .oam 0x400 1#8)).requests = [.memWrite .oam 0x400 1#8] ∧
      State.reset.live = true ∧ regionSize State.reset.params .oam ≤ 0x400 := by decide

/-- A four-byte write that ends at the last offset. -/
theorem witness_WideHostWriteReadsBack :
    let s := { State.reset with requests := wideWrite Params.default .oam 0x3FC 4 0x12345678 }
    s.Inv ∧ s.live = true ∧ 0x3FC + 4 ≤ regionSize s.params .oam ∧
      s.requests = wideWrite s.params .oam 0x3FC 4 0x12345678 :=
  ⟨⟨inv_reset.settled, inv_reset.dormant,
    fun r => by cases r <;> simp [State.region, State.reset, Memory.wf],
    fun r => by cases r <;> simp [State.region, State.reset]⟩, rfl, by decide, rfl⟩

theorem witness_StepKeepsInvariant :
    (ask (hb (-1)) (.command 0x00000000000000E2#64)).Inv ∧
      ∃ t, step (ask (hb (-1)) (.command 0x00000000000000E2#64)) = .next t :=
  ⟨inv_ask inv_hb_pre _, _, rfl⟩

/-! ### Witnesses: guards -/

/-- Every transaction is admitted somewhere, and refused somewhere. -/
theorem witness_TransactionsCompleteExactlyWhenAdmitted :
    Admitted (.advance 1#32) State.reset ∧ Admitted (.writeStatus 0#16) State.reset ∧
      Admitted .readStatus State.reset ∧ Admitted (.writeVideoReg 0#32 0#16) State.reset ∧
      Admitted (.attachRenderer 7#32) State.reset ∧ Admitted .powerOn State.unpowered ∧
      Admitted .teardown State.reset := by
  simp only [Admitted]; decide

theorem witness_RefusedTransactionsSayWhy :
    ¬ Admitted .powerOn State.reset ∧ ¬ Admitted .readStatus State.unpowered ∧
      ¬ Admitted (.writeVideoReg 0x04000004#32 0x18#16) State.reset := by
  simp only [Admitted]; decide

/-! ### Witnesses: ADVANCE -/

theorem witness_AdvanceShortOfTheEventLowersE :
    State.reset.live = true ∧ 0 < (State.reset.video.cyclesToNextEvent - 1005#32).toInt := by decide

theorem witness_AdvanceStartsHblank :
    State.reset.live = true ∧ State.reset.video.inHblank = false ∧ EventDue 1006#32 State.reset := by
  unfold EventDue; decide

/-- Lines -1, 159, 160 and 227, the ends of the two clauses' ranges. -/
theorem witness_StartOfHblankOutputs :
    (State.reset.Inv ∧ State.reset.video.scanline.toInt = -1 ∧ EventDue 1006#32 State.reset) ∧
      ((hd 159).Inv ∧ (hd 159).video.scanline.toInt = 159 ∧ EventDue 1006#32 (hd 159)) ∧
      ((hd 160).Inv ∧ (hd 160).video.scanline.toInt = 160 ∧ EventDue 1006#32 (hd 160)) ∧
      ((hd 227).Inv ∧ (hd 227).video.scanline.toInt = 227 ∧ EventDue 1006#32 (hd 227)) :=
  ⟨⟨inv_reset, by decide, by unfold EventDue; decide⟩,
    ⟨inv_of_settled settled_hd_159 _, by decide, by unfold EventDue; decide⟩,
    ⟨inv_of_settled settled_hd_160 _, by decide, by unfold EventDue; decide⟩,
    ⟨inv_of_settled settled_hd_227 _, by decide, by unfold EventDue; decide⟩⟩

/-- The lines after which the cases of an End-of-Hblank differ: 159, 226 and 227. -/
theorem witness_AdvanceEndsHblank :
    ((hb 159).video.inHblank = true ∧ EventDue 226#32 (hb 159) ∧ nextLine (hb 159) = 160#32) ∧
      ((hb 226).video.inHblank = true ∧ EventDue 226#32 (hb 226) ∧ nextLine (hb 226) = 227#32) ∧
      ((hb 227).video.inHblank = true ∧ EventDue 226#32 (hb 227) ∧ nextLine (hb 227) = 0#32) := by
  unfold EventDue nextLine; decide

/-- One state for each list: Start-of-Hblank, into line 160, into line 0, into line 161 and more. -/
theorem witness_EventOutputsFollowTheOrder :
    EventDue 1006#32 (hd 10) ∧ EventDue 226#32 (hb 159) ∧ EventDue 226#32 (hb (-1)) ∧
      EventDue 226#32 (hb 160) := by
  unfold EventDue; decide

/-- Both ends of the increment: line -1 and the wrap after line 227. -/
theorem witness_EndOfHblankCommonPart :
    ((hb (-1)).Inv ∧ (hb (-1)).live = true ∧ (hb (-1)).video.inHblank = true ∧
        EventDue 226#32 (hb (-1))) ∧
      ((hb 227).Inv ∧ (hb 227).live = true ∧ (hb 227).video.inHblank = true ∧
        EventDue 226#32 (hb 227)) :=
  ⟨⟨inv_hb_pre, rfl, rfl, by unfold EventDue; decide⟩,
    ⟨inv_of_settled settled_hb_227 _, rfl, rfl, by unfold EventDue; decide⟩⟩

/-- Both phases, each with the next event due in turn. -/
theorem witness_EventDistanceIsRecorded :
    (∃ t, State.reset.Inv ∧ EventDue 1006#32 State.reset ∧
        exec (.advance 1006#32) State.reset = .next t ∧ EventDue 226#32 t) ∧
      ∃ t, (hb 10).Inv ∧ EventDue 226#32 (hb 10) ∧ exec (.advance 226#32) (hb 10) = .next t ∧
        EventDue 1006#32 t :=
  ⟨⟨_, inv_reset, by unfold EventDue; decide, rfl, by unfold EventDue; decide⟩,
    ⟨_, inv_hb_10, by unfold EventDue; decide, rfl, by unfold EventDue; decide⟩⟩

theorem witness_OvershootIsLost :
    State.reset.live = true ∧ EventDue 1006#32 State.reset ∧ EventDue 2147483647#32 State.reset := by
  unfold EventDue; decide

/-- The largest operand a command word carries. -/
theorem witness_BudgetStaysInRange :
    State.reset.Inv ∧ State.reset.live = true ∧ (2147483647#32 : Word).toNat < 2 ^ 31 :=
  ⟨inv_reset, rfl, by decide⟩

/-! ### Witnesses: whole-machine rules -/

theorem witness_PhaseFlagFollowsTheEvents :
    (∃ t, exec (.advance 1006#32) (hd 10) = .next t) ∧ EventDue 1006#32 (hd 10) ∧
      ∃ t, exec (.advance 226#32) (hb 10) = .next t ∧ EventDue 226#32 (hb 10) :=
  ⟨⟨_, rfl⟩, by unfold EventDue; decide, _, rfl, by unfold EventDue; decide⟩

theorem witness_MatchFlagIsWrittenByEndOfHblank :
    (∃ t, exec (.advance 226#32) (hb (-1)) = .next t) ∧ EventDue 226#32 (hb (-1)) ∧
      (hb (-1)).video.inHblank = true ∧ ∃ t, exec (.writeStatus 0x0520#16) (hd 0) = .next t :=
  ⟨⟨_, rfl⟩, by unfold EventDue; decide, rfl, _, rfl⟩

theorem witness_EnablesAreStatusBitsAndGates :
    (∃ t, exec (.writeStatus 0x0F18#16) (hd 10) = .next t) ∧
      ∃ t, exec .readStatus (hd 10) = .next t := ⟨⟨_, rfl⟩, _, rfl⟩

/-- Each interrupt raised: V3c for two of them, V2a for the Hblank interrupt. -/
theorem witness_InterruptSources :
    (answers (.advance 226#32) (State.withControls (hb 159) true true true 160#8)).map (·.1) =
        some [.paceQuery, .rFinishFrame 0#32, .dmaVblank, .irq .vblank, .paceFramePosted,
          .irq .vcounter] ∧
      (answers (.advance 1006#32) (State.withControls (hd 5) true true true 160#8)).map (·.1) =
        some [.dmaHblank, .irq .hblank] := by decide

theorem witness_DmaTriggerSources :
    (hb 159).Inv ∧ (∃ t, exec (.advance 226#32) (hb 159) = .next t) ∧
      (hd 159).Inv ∧ ∃ t, exec (.advance 1006#32) (hd 159) = .next t :=
  ⟨inv_of_settled settled_hb_159 _, ⟨_, rfl⟩, inv_of_settled settled_hd_159 _, _, rfl⟩

theorem witness_DrawAndFinishSources :
    (answers (.advance 226#32) (hb (-1))).map (·.1) =
        some [.paceQuery, .rDrawScanline 0#32 0#32] ∧
      (answers (.advance 226#32) (hb 159)).map (·.1) =
        some [.paceQuery, .rFinishFrame 0#32, .dmaVblank, .paceFramePosted] := by decide

/-- The lowest target that never matches. -/
theorem witness_HighTargetsNeverMatch :
    let s := State.withControls (hb 226) true true true 228#8
    s.Inv ∧ s.live = true ∧ s.video.inHblank = true ∧ EventDue 226#32 s ∧
      228 ≤ s.video.vcountTarget.toNat :=
  ⟨inv_of_settled (settled_withControls settled_hb_226 true true true 228#8) [true, true], rfl, rfl,
    by unfold EventDue; decide, by decide⟩

theorem witness_InertCountdownsDecideNothing :
    let t := { hb 10 with
      video := { (hb 10).video with
        cyclesToNextVblankIRQ := 5#32, cyclesToNextVcounterIRQ := 6#32 } }
    SameButInertCountdowns (hb 10) t ∧ ∃ s', exec (.advance 226#32) (hb 10) = .next s' :=
  ⟨rfl, _, rfl⟩

theorem witness_PacingChangesNoTiming :
    SameButPacing (hb 10) { hb 10 with pacingAnswers := [false], pacingDraws := 3 } ∧
      ∃ s', exec (.advance 226#32) (hb 10) = .next s' := ⟨rfl, _, rfl⟩

/-- A state whose memory is not empty, and a drawn scanline whose renderer sees it. -/
theorem witness_TransactionsKeepRegionBytes :
    let s := { hb 10 with vram := [(0, 0xAB#8)] }
    (∃ t, exec (.advance 226#32) s = .next t ∧ .rDrawScanline 0#32 11#32 ∈ t.outputs) ∧
      rendererSees s (.rDrawScanline 0#32 11#32) .vram 0 = some 0xAB#8 :=
  ⟨⟨_, rfl, by decide⟩, by decide⟩

/-! ### Witnesses: runs -/

/-- The fields at the start of a line, whichever the line is. -/
structure AtLineStart (s : State) : Prop where
  live    : s.live = true
  settled : s.video.Settled
  hdraw   : s.video.inHblank = false
  budget  : s.video.cyclesToNextEvent = 1006#32

/-- A line's two calls respect the budget and lead to the start of the next line. -/
theorem AtLineStart.line {s : State} (h : AtLineStart s) {rest : List Word}
    (hr : ∀ t, AtLineStart t → WithinBudget rest t) :
    WithinBudget (1006#32 :: 226#32 :: rest) s := by
  have e1 : (s.video.cyclesToNextEvent - 1006#32).toInt ≤ 0 := by rw [h.budget]; decide
  refine ⟨by rw [h.budget]; decide, fun t ht => ?_⟩
  have vt := (exec_video ht).trans (h.settled.start h.hdraw e1)
  have st : t.video.Settled := (exec_video ht) ▸ h.settled.advance (by decide)
  have lt : t.live = true := by
    obtain ⟨hl, rfl⟩ := exec_advance_eq_next.mp ht
    simpa using hl
  have bt : t.video.inHblank = true := by rw [vt]
  have et : t.video.cyclesToNextEvent = 226#32 := by rw [vt]
  have e2 : (t.video.cyclesToNextEvent - 226#32).toInt ≤ 0 := by rw [et]; decide
  refine ⟨by rw [et]; decide, fun u hu => hr u ?_⟩
  have vu := (exec_video hu).trans (st.finish bt e2)
  refine ⟨?_, (exec_video hu) ▸ st.advance (by decide), by rw [vu]; rfl, by rw [vu]; rfl⟩
  obtain ⟨hl, rfl⟩ := exec_advance_eq_next.mp hu
  simpa using hl

/-- The calls of `n` whole lines. -/
def lineCalls (n : Nat) : List Word := (List.replicate n [1006#32, 226#32]).flatten

theorem withinBudget_lineCalls (n : Nat) : ∀ s, AtLineStart s → WithinBudget (lineCalls n) s := by
  induction n with
  | zero => exact fun _ _ => trivial
  | succ n ih => exact fun s h => h.line ih

theorem elapsed_lineCalls (n : Nat) : elapsed (lineCalls n) = n * 1232 := by
  induction n with
  | zero => rfl
  | succ n ih =>
    have h : elapsed (lineCalls (n + 1)) = 1006 + (226 + elapsed (lineCalls n)) := rfl
    rw [h, ih]; omega

theorem atLineStart_reset : AtLineStart State.reset := ⟨rfl, Video.reset_settled, rfl, rfl⟩
theorem atLineStart_hd_0 : AtLineStart (hd 0) := ⟨rfl, settled_hd_0, rfl, rfl⟩

/-- One call against two that make the same sum. -/
theorem witness_NoDriftUnderFineStepping :
    State.reset.Inv ∧ State.reset.live = true ∧ WithinBudget [1006#32] State.reset ∧
      WithinBudget [1000#32, 6#32] State.reset ∧ elapsed [1006#32] = elapsed [1000#32, 6#32] := by
  refine ⟨inv_reset, rfl, ⟨by decide, fun _ _ => trivial⟩, ⟨by decide, fun t ht => ?_⟩, by decide⟩
  rw [(exec_advance_eq_next.mp ht).2]
  exact ⟨by decide, fun _ _ => trivial⟩

/-- A run of one line and one of a frame and a line, on either side of the case split. -/
theorem witness_PositionAfterElapsedCycles :
    State.reset.live = true ∧ State.reset.video = Video.reset ∧ WithinBudget [] State.reset ∧
      elapsed [] < 1232 ∧ WithinBudget (lineCalls 229) State.reset ∧
      elapsed (lineCalls 229) = 282128 :=
  ⟨rfl, rfl, trivial, by decide, withinBudget_lineCalls _ _ atLineStart_reset,
    elapsed_lineCalls 229⟩

theorem witness_FrameVisitsEveryLineOnce :
    (hd 0).Inv ∧ (hd 0).live = true ∧ (hd 0).video.inHblank = false ∧
      (hd 0).video.cyclesToNextEvent = 1006#32 ∧ 0 ≤ (hd 0).video.scanline.toInt ∧
      WithinBudget (lineCalls 228) (hd 0) ∧ elapsed (lineCalls 228) = 280896 :=
  ⟨inv_hd_0, rfl, rfl, rfl, by decide, withinBudget_lineCalls _ _ atLineStart_hd_0,
    elapsed_lineCalls 228⟩

/-- Targets on both sides of the last line, the enables set. -/
theorem witness_FrameEventCounts (target : BitVec 8) :
    let s := State.withControls (hd 0) true true true target
    s.Inv ∧ s.live = true ∧ 0 ≤ s.video.scanline.toInt ∧ WithinBudget (lineCalls 228) s ∧
      elapsed (lineCalls 228) = 280896 :=
  have h := settled_withControls settled_hd_0 true true true target
  ⟨inv_of_settled h [true, true], rfl, (by decide : 0 ≤ (hd 0).video.scanline.toInt),
    withinBudget_lineCalls _ _ ⟨rfl, h, rfl, rfl⟩, elapsed_lineCalls 228⟩

/-- Both cases: the enable clear, and the lowest target that never matches. -/
theorem witness_VcounterCountdownDeclines :
    ((hd 0).Inv ∧ (hd 0).live = true ∧ (hd 0).video.vcounterIRQEnabled = false ∧
        WithinBudget (lineCalls 228) (hd 0)) ∧
      (let s := State.withControls (hd 0) true true true 228#8
       s.Inv ∧ s.live = true ∧ 228 ≤ s.video.vcountTarget.toNat ∧
        WithinBudget (lineCalls 228) s) ∧ elapsed (lineCalls 228) = 280896 :=
  have h := settled_withControls settled_hd_0 true true true 228#8
  ⟨⟨inv_hd_0, rfl, rfl, withinBudget_lineCalls _ _ atLineStart_hd_0⟩,
    ⟨inv_of_settled h [true, true], rfl, by decide, withinBudget_lineCalls _ _ ⟨rfl, h, rfl, rfl⟩⟩,
    elapsed_lineCalls 228⟩

/-- The last line from which the target is still a line, and runs of both clauses. -/
theorem witness_VcounterFiresFiveLinesOn :
    ((hd 222).Inv ∧ (hd 222).live = true ∧ (hd 222).video.inHblank = false ∧
      (hd 222).video.cyclesToNextEvent = 1006#32 ∧ (hd 222).video.scanline.toInt + 5 ≤ 227 ∧
      (0xE320#16 : Half).getLsbD 5 = true ∧
      (((0xE320#16 : Half).toNat / 256 : Nat) : Int) = (hd 222).video.scanline.toInt + 5) ∧
      ∃ t, exec (.writeStatus 0xE320#16) (hd 222) = .next t ∧
        WithinBudget (lineCalls 4) t ∧ elapsed (lineCalls 4) < 6160 ∧
        WithinBudget (lineCalls 5) t ∧ elapsed (lineCalls 5) = 6160 :=
  have h : AtLineStart { (hd 222).begin with video := writeStatusVideo 0xE320#16 (hd 222).video } :=
    ⟨rfl, settled_hd_222.writeStatus 0xE320#16, rfl, rfl⟩
  ⟨⟨inv_of_settled settled_hd_222 _, rfl, rfl, rfl, by decide, by decide, by decide⟩, _,
    exec_writeStatus_eq_next.mpr ⟨rfl, rfl⟩, withinBudget_lineCalls _ _ h,
    by rw [elapsed_lineCalls]; decide, withinBudget_lineCalls _ _ h, elapsed_lineCalls 5⟩

/-! ### Witnesses: the status register -/

theorem witness_WriteStatusEffect : (hd 10).live = true := rfl

/-- Each case at its boundary: targets line and line - 1 in Hdraw, line - 1 and line - 2 in Hblank. -/
theorem witness_RecomputedVcounterClosedForms :
    (hd 10).Inv ∧ (hb 10).Inv ∧ (hd 10).live = true ∧ (hb 10).live = true ∧
      (0x0A20#16 : Half).getLsbD 5 = true ∧ (0x0920#16 : Half).getLsbD 5 = true ∧
      (0x0820#16 : Half).getLsbD 5 = true :=
  ⟨inv_hd_10, inv_hb_10, rfl, rfl, by decide, by decide, by decide⟩

/-- The boundary target, the line itself. -/
theorem witness_HblankStatusWriteIsOneLineLater :
    (hd 10).Inv ∧ (hb 10).Inv ∧ (hd 10).live = true ∧ (hb 10).live = true ∧
      (hd 10).video.inHblank = false ∧ (hb 10).video.inHblank = true ∧
      (hb 10).video.scanline = (hd 10).video.scanline ∧ (0x0A20#16 : Half).getLsbD 5 = true ∧
      (hd 10).video.scanline.toInt ≤ (((0x0A20#16 : Half).toNat / 256 : Nat) : Int) :=
  ⟨inv_hd_10, inv_hb_10, rfl, rfl, rfl, rfl, rfl, by decide, by decide⟩

/-- The target written is the current line, and transactions follow that end no Hblank. -/
theorem witness_WriteStatusChangesNothingElse :
    (hd 10).live = true ∧
      ∃ t, exec (.writeStatus 0x0A20#16) (hd 10) = .next t ∧
        (∃ p, run [.advance 1006#32, .readStatus] t = some p) ∧
        NoEndOfHblank [.advance 1006#32, .readStatus] t := by
  refine ⟨rfl, _, rfl, ⟨_, rfl⟩, ?_, fun u hu => ⟨?_, fun _ _ => trivial⟩⟩
  · rintro ⟨c, _, _, hb⟩; exact absurd hb (by decide)
  · rintro ⟨c, hc, _⟩; simp at hc

theorem witness_IgnoredStatusBitsTakeNoPart :
    (0x0FC7#16 : Half).getLsbD 3 = (0x0F00#16 : Half).getLsbD 3 ∧
      (0x0FC7#16 : Half).getLsbD 4 = (0x0F00#16 : Half).getLsbD 4 ∧
      (0x0FC7#16 : Half).getLsbD 5 = (0x0F00#16 : Half).getLsbD 5 ∧
      (0x0FC7#16 : Half).toNat / 256 = (0x0F00#16 : Half).toNat / 256 := by decide

theorem witness_ReadStatusAnswersTheFlags : (hb 160).live = true := rfl

/-! ### Witnesses: the renderer and the lifecycle -/

theorem witness_DummyRendererAnswersTheValue :
    State.reset.live = true ∧ 0x04000005#32 ≠ State.reset.params.statusRegAddr ∧
      State.reset.renderer = 0#32 := by decide

/-- Both cases: an answer given as input, and none. -/
theorem witness_RealRendererAnswersByInput :
    let s := { State.reset with renderer := 7#32 }
    s.live = true ∧ 0x04000005#32 ≠ s.params.statusRegAddr ∧ s.renderer ≠ 0#32 ∧
      s.rendererAnswers = [] ∧
      ({ s with rendererAnswers := [0x1234#16] } : State).rendererAnswers = [0x1234#16] := by decide

theorem witness_AttachRunsTheProtocol : State.reset.live = true := rfl

/-- Attached, attached again, and detached by a teardown. -/
theorem witness_InitAndDeinitAreMatched :
    let s := { State.reset with renderer := 7#32 }
    State.reset.Inv ∧ (∃ t, exec (.attachRenderer 7#32) State.reset = .next t) ∧ s.Inv ∧
      (∃ t, exec (.attachRenderer 7#32) s = .next t) ∧ (∃ t, exec .teardown s = .next t) ∧
      (7#32 : RendererHandle) ≠ 0#32 :=
  ⟨inv_reset, ⟨_, rfl⟩,
    ⟨inv_reset.settled, fun hl => Bool.noConfusion hl,
      fun r => by cases r <;> simp [State.region, State.reset, Memory.wf],
      fun r => by cases r <;> simp [State.region, State.reset]⟩,
    ⟨_, rfl⟩, ⟨_, rfl⟩, by decide⟩

theorem witness_PowerOnGivesTheResetState : State.unpowered.live = false := rfl

theorem witness_TeardownDetachesAndReleases : (hd 10).live = true := rfl

theorem witness_NothingSurvivesTeardown :
    (hd 10).live = true ∧ State.unpowered.live = false ∧ State.unpowered.params = (hd 10).params :=
  ⟨rfl, rfl, rfl⟩

end Sys2Proof.Tests
end

section
/-! SUPPORT. The phase flag, the match flag and the three enables: what each transaction leaves of them,
which interrupts they let through, and the status bits that answer them (10_state.md R21, R23, R24). -/

namespace Sys2Proof.Machine

/-! ### The status value, bit by bit (41_status.md R134) -/

theorem flag16_getLsbD (b : Bool) (n : Nat) : (flag16 b).getLsbD n = (decide (n = 0) && b) := by
  cases b <;> simp [flag16]

/-- The three flags are bits 0 to 2 of the status value, and no other bit is set. -/
theorem statusRead_getLsbD (v : Video) (n : Nat) :
    (statusRead v).getLsbD n =
      (decide (n = 0) && v.inVblank || decide (n = 1) && v.inHblank ||
        decide (n = 2) && v.vcounterMatch) := by
  obtain _ | _ | _ | n := n <;> simp [statusRead, flag16_getLsbD, -BitVec.getLsbD_eq_getElem]

theorem statusRead_lt (v : Video) : (statusRead v).toNat < 2 ^ 3 := by
  refine Nat.lt_pow_two_of_testBit _ fun n hn => ?_
  rw [← BitVec.getLsbD, statusRead_getLsbD]
  simp [show n ≠ 0 by omega, show n ≠ 1 by omega, show n ≠ 2 by omega]

/-- A live block answers READ_STATUS with its status value. -/
theorem exec_readStatus_of_live {s : State} (hl : s.live = true) :
    ∃ t, exec .readStatus s = .next t ∧ t.result = .statusValue (statusRead s.video) :=
  ⟨_, exec_readStatus_eq_next.mpr ⟨hl, rfl⟩, rfl⟩

/-! ### The event, on the scanline and the match flag -/

/-- Only an End-of-Hblank leads to another line (40_timing.md R92, R95). -/
theorem advanceVideo_scanline {c : Word} {s : State} (hd : EventDue c s) :
    (advanceVideo c s.video).scanline =
      if s.video.inHblank then nextLine s else s.video.scanline := by
  have hphase : (spendVideo c s.video).inHblank = s.video.inHblank := rfl
  rw [advanceVideo_of_due hd]
  cases hb : s.video.inHblank <;> simp only [eventVideo, hphase, hb]
  · rfl
  · exact endVideo_scanline _

/-- An End-of-Hblank compares the line it leads to with the target (40_timing.md R97). -/
theorem advanceVideo_vcounterMatch_of_endHblank {c : Word} {s : State} (hd : EventDue c s)
    (hb : s.video.inHblank = true) :
    (advanceVideo c s.video).vcounterMatch =
      decide ((advanceVideo c s.video).scanline =
        (advanceVideo c s.video).vcountTarget.setWidth 32) := by
  obtain ⟨htarget, -, -, -⟩ := advanceVideo_controls c s.video
  have hphase : (spendVideo c s.video).inHblank = true := hb
  rw [htarget, advanceVideo_of_due hd]
  simp only [eventVideo, hphase, if_true]
  exact endVideo_vcounterMatch _

/-- An ADVANCE that ends no Hblank leaves the match flag. -/
theorem advanceVideo_vcounterMatch_of_no_endHblank {c : Word} {s : State}
    (h : ¬ (EventDue c s ∧ s.video.inHblank = true)) :
    (advanceVideo c s.video).vcounterMatch = s.video.vcounterMatch := by
  by_cases hd : EventDue c s
  · have hphase : (spendVideo c s.video).inHblank = false := by
      simpa [spendVideo] using fun hb => h ⟨hd, hb⟩
    rw [advanceVideo_of_due hd]
    simp only [eventVideo, hphase, Bool.false_eq_true, if_false]
    rfl
  · rw [advanceVideo_of_not_due hd]

/-! ### Any transaction but POWER_ON -/

theorem exec_advance_video {c : Word} {s t : State} (h : exec (.advance c) s = .next t) :
    t.video = advanceVideo c s.video := exec_video h

theorem exec_writeStatus_video {v : Half} {s t : State} (h : exec (.writeStatus v) s = .next t) :
    t.video = writeStatusVideo v s.video := exec_video h

/-- A transaction that performs no event leaves the phase flag. -/
theorem exec_inHblank_of_no_event {i : Instr} {s t : State} (h : exec i s = .next t)
    (hp : i ≠ .powerOn) (hn : ¬ ∃ c, i = .advance c ∧ EventDue c s) :
    t.video.inHblank = s.video.inHblank := by
  cases i with
  | advance c => rw [exec_advance_video h, advanceVideo_of_not_due fun hd => hn ⟨c, rfl, hd⟩]
  | writeStatus v => rw [exec_writeStatus_video h, writeStatusVideo_eq]
  | powerOn => exact absurd rfl hp
  | readStatus | writeVideoReg | attachRenderer | teardown =>
    exact congrArg Video.inHblank (exec_video h)

/-- A transaction that ends no Hblank leaves the match flag. -/
theorem exec_vcounterMatch_of_no_endHblank {i : Instr} {s t : State} (h : exec i s = .next t)
    (hp : i ≠ .powerOn)
    (hn : ¬ ∃ c, i = .advance c ∧ EventDue c s ∧ s.video.inHblank = true) :
    t.video.vcounterMatch = s.video.vcounterMatch := by
  cases i with
  | advance c =>
    rw [exec_advance_video h]
    exact advanceVideo_vcounterMatch_of_no_endHblank fun he => hn ⟨c, rfl, he⟩
  | writeStatus v => rw [exec_writeStatus_video h, writeStatusVideo_eq]
  | powerOn => exact absurd rfl hp
  | readStatus | writeVideoReg | attachRenderer | teardown =>
    exact congrArg Video.vcounterMatch (exec_video h)

/-- Only WRITE_STATUS and POWER_ON write the enables. -/
theorem exec_enables_of_ne_writeStatus {i : Instr} {s t : State} (h : exec i s = .next t)
    (hw : ∀ v, i ≠ .writeStatus v) (hp : i ≠ .powerOn) :
    t.video.vblankIRQEnabled = s.video.vblankIRQEnabled ∧
      t.video.hblankIRQEnabled = s.video.hblankIRQEnabled ∧
      t.video.vcounterIRQEnabled = s.video.vcounterIRQEnabled := by
  cases i with
  | advance c =>
    rw [exec_advance_video h]
    exact (advanceVideo_controls c s.video).2
  | writeStatus v => exact absurd rfl (hw v)
  | powerOn => exact absurd rfl hp
  | readStatus | writeVideoReg | attachRenderer | teardown =>
    have hv : t.video = s.video := exec_video h
    simp [hv]

/-- A status write that clears the vcounter enable leaves CI (41_status.md R131). -/
theorem writeStatusVideo_vcounterIRQ_of_disabled {v : Half} (hv : v.getLsbD 5 = false) (w : Video) :
    (writeStatusVideo v w).cyclesToNextVcounterIRQ = w.cyclesToNextVcounterIRQ := by
  have hdisabled : statusVcounterEnable v = false := hv
  simp [writeStatusVideo, scatterStatus, hdisabled]

/-! ### Which interrupts are raised -/

/-- The event due in `s` raises an interrupt of this kind (60_exceptions.md R182 to R184). -/
def RaisesIrq (s : State) : IrqKind → Prop
  | .vblank   =>
    s.video.inHblank = true ∧ nextLine s = 160#32 ∧ s.video.vblankIRQEnabled = true
  | .hblank   => s.video.inHblank = false ∧ s.video.hblankIRQEnabled = true
  | .vcounter =>
    s.video.inHblank = true ∧ nextLine s = s.video.vcountTarget.setWidth 32 ∧
      s.video.vcounterIRQEnabled = true

/-- The interrupts a transaction raises are those of the event it performs. -/
theorem irq_mem_outputs_iff {i : Instr} {s t : State} (h : exec i s = .next t) (k : IrqKind) :
    .irq k ∈ t.outputs ↔ ∃ c, i = .advance c ∧ EventDue c s ∧ RaisesIrq s k := by
  obtain ⟨c, rfl, -, hd, hout⟩ | ⟨hn, hout⟩ := exec_outputs_cases h
  · have hevent : .irq k ∈ t.outputs ↔ RaisesIrq s k := by
      rw [hout, mem_advanceState_outputs_due hd]
      cases k <;> simp [RaisesIrq, mem_vblankOutputs]
    rw [hevent]
    exact ⟨fun hr => ⟨c, rfl, hd, hr⟩, fun ⟨_, _, _, hr⟩ => hr⟩
  · constructor
    · intro hmem
      obtain ⟨_, _, _, he⟩ | ⟨_, he | he | he⟩ := hout _ hmem <;> cases he
    · rintro ⟨c, rfl, hd, -⟩
      exact absurd ⟨c, rfl, hd⟩ hn

/-- Each enable gates its interrupt (10_state.md R24). -/
theorem enabled_of_raisesIrq {s : State} :
    (RaisesIrq s .vblank → s.video.vblankIRQEnabled = true) ∧
      (RaisesIrq s .hblank → s.video.hblankIRQEnabled = true) ∧
      (RaisesIrq s .vcounter → s.video.vcounterIRQEnabled = true) :=
  ⟨fun ⟨_, _, he⟩ => he, fun ⟨_, he⟩ => he, fun ⟨_, _, he⟩ => he⟩

/-- No vcounter interrupt without the match flag (10_state.md R23). -/
theorem vcounterMatch_of_irq_mem {i : Instr} {s t : State} (h : exec i s = .next t)
    (hmem : .irq .vcounter ∈ t.outputs) : t.video.vcounterMatch = true := by
  obtain ⟨c, rfl, hd, hb, hline, -⟩ := (irq_mem_outputs_iff h .vcounter).mp hmem
  obtain ⟨htarget, -, -, -⟩ := advanceVideo_controls c s.video
  rw [exec_advance_video h, advanceVideo_vcounterMatch_of_endHblank hd hb, advanceVideo_scanline hd,
    htarget]
  simpa [hb] using hline

/-! ### The obligations -/

/-- Settles O31: an event flips the flag, whatever performs no event keeps it, and bit 1 of the status
value is the flag. -/
theorem phaseFlagFollowsTheEvents : Obligations.PhaseFlagFollowsTheEvents := by
  unfold Obligations.PhaseFlagFollowsTheEvents
  refine fun s => ⟨fun i t h hp => ⟨fun hne => ?_, ?_⟩, fun c t h hd => ?_, fun hl => ?_⟩
  · by_contra hn
    exact hne (exec_inHblank_of_no_event h hp hn)
  · rintro ⟨c, rfl, hd⟩
    rw [exec_advance_video h]
    simp [advanceVideo_inHblank hd]
  · rw [exec_advance_video h]
    exact ⟨advanceVideo_inHblank hd, advanceVideo_scanline hd⟩
  · obtain ⟨t, ht, hr⟩ := exec_readStatus_of_live hl
    exact ⟨t, _, ht, hr, (statusRead_getLsbD s.video 1).trans (by simp)⟩

/-- Settles O32: an End-of-Hblank makes the comparison, every other transaction of a session keeps the
flag, and bit 2 of the status value is the flag. -/
theorem matchFlagIsWrittenByEndOfHblank : Obligations.MatchFlagIsWrittenByEndOfHblank := by
  unfold Obligations.MatchFlagIsWrittenByEndOfHblank
  refine fun s => ⟨fun i t h hp => ⟨?_, exec_vcounterMatch_of_no_endHblank h hp,
    vcounterMatch_of_irq_mem h⟩, fun hl => ?_⟩
  · rintro ⟨c, rfl, hd, hb⟩
    rw [exec_advance_video h]
    exact advanceVideo_vcounterMatch_of_endHblank hd hb
  · obtain ⟨t, ht, hr⟩ := exec_readStatus_of_live hl
    exact ⟨t, _, ht, hr, (statusRead_getLsbD s.video 2).trans (by simp)⟩

/-- Settles O33: the scatter of a status write, the transactions that keep the enables, the interrupt
gates, and a status value that no enable enters. -/
theorem enablesAreStatusBitsAndGates : Obligations.EnablesAreStatusBitsAndGates := by
  unfold Obligations.EnablesAreStatusBitsAndGates
  refine fun s => ⟨fun v t h => ?_, fun i t h => ⟨exec_enables_of_ne_writeStatus h, ?_⟩,
    fun ve he ce t u ht hu => ?_, fun hl => ?_⟩
  · rw [exec_writeStatus_video h]
    have hw := writeStatusVideo_eq v s.video
    exact ⟨congrArg Video.vblankIRQEnabled hw, congrArg Video.hblankIRQEnabled hw,
      congrArg Video.vcounterIRQEnabled hw,
      fun hv => writeStatusVideo_vcounterIRQ_of_disabled hv s.video⟩
  · have hraised {k} (hmem : .irq k ∈ t.outputs) : RaisesIrq s k := by
      obtain ⟨_, -, -, hr⟩ := (irq_mem_outputs_iff h k).mp hmem
      exact hr
    obtain ⟨hvblank, hhblank, hvcounter⟩ := enabled_of_raisesIrq (s := s)
    exact ⟨hvblank ∘ hraised, hhblank ∘ hraised, hvcounter ∘ hraised⟩
  · obtain ⟨-, rfl⟩ := exec_readStatus_eq_next.mp ht
    obtain ⟨-, rfl⟩ := exec_readStatus_eq_next.mp hu
    rfl
  · obtain ⟨t, ht, hr⟩ := exec_readStatus_of_live hl
    exact ⟨t, _, ht, hr, statusRead_lt s.video⟩

end Sys2Proof.Machine
end

section
/-! SUPPORT. A step on a byte request of the host: the access it performs, its refusal on a block that is
not live, and the zero bytes of an empty region (20_memory.md R51, R54). -/

namespace Sys2Proof.Machine

/-! ### A step on a byte request (20_memory.md R54) -/

theorem step_of_memRead {s : State} {r : Region} {off : Nat} {rest : List HostRequest}
    (h : s.requests = .memRead r off :: rest) :
    step s = hostRead r off { s with requests := rest } := step_of_request h

theorem step_of_memWrite {s : State} {r : Region} {off : Nat} {b : Byte} {rest : List HostRequest}
    (h : s.requests = .memWrite r off b :: rest) :
    step s = hostWrite r off b { s with requests := rest } := step_of_request h

/-- A live block answers a read of a valid offset with the byte there. -/
theorem step_memRead_of_live {s : State} {r : Region} {off : Nat} {rest : List HostRequest}
    (h : s.requests = .memRead r off :: rest) (hl : s.live = true) (hoff : off < regionSize s.params r) :
    step s = .next { s with
      requests := rest, outputs := [], result := .memoryByte (s.regionByte r off) } := by
  have hregion : State.region { s with requests := rest } r = s.region r :=
    State.region_congr rfl rfl rfl r
  rw [step_of_memRead h, hostRead_eq_next]
  refine ⟨hl, hoff, ?_⟩
  simp only [State.regionByte, hregion]
  rfl

/-! ### Accesses to a block that is not live (20_memory.md R51) -/

theorem hostRead_of_not_live {s : State} (hl : s.live = false) (r : Region) (off : Nat) :
    hostRead r off s = .refused .notLive := by
  rw [hostRead, whenOffset, whenLive_of_not_live hl]

theorem hostWrite_of_not_live {s : State} (hl : s.live = false) (r : Region) (off : Nat) (b : Byte) :
    hostWrite r off b s = .refused .notLive := by
  rw [hostWrite, whenOffset, whenLive_of_not_live hl]

theorem step_memRead_of_not_live {s : State} {r : Region} {off : Nat} {rest : List HostRequest}
    (h : s.requests = .memRead r off :: rest) (hl : s.live = false) : step s = .refused .notLive :=
  (step_of_memRead h).trans (hostRead_of_not_live (s := { s with requests := rest }) hl r off)

theorem step_memWrite_of_not_live {s : State} {r : Region} {off : Nat} {b : Byte}
    {rest : List HostRequest} (h : s.requests = .memWrite r off b :: rest) (hl : s.live = false) :
    step s = .refused .notLive :=
  (step_of_memWrite h).trans (hostWrite_of_not_live (s := { s with requests := rest }) hl r off b)

/-! ### Zero-initialised regions (20_memory.md R51) -/

/-- A region that lists no byte reads as zero at every offset. -/
theorem regionByte_of_region_nil {s : State} {r : Region} (h : s.region r = []) (off : Nat) :
    s.regionByte r off = 0x00#8 := by
  rw [State.regionByte, h]
  exact Memory.read_nil off

theorem step_memRead_of_region_nil {s : State} {r : Region} {off : Nat} {rest : List HostRequest}
    (h : s.requests = .memRead r off :: rest) (hl : s.live = true) (hoff : off < regionSize s.params r)
    (hnil : s.region r = []) :
    step s = .next { s with requests := rest, outputs := [], result := .memoryByte 0x00#8 } := by
  rw [step_memRead_of_live h hl hoff, regionByte_of_region_nil hnil]

/-! ### The obligation -/

/-- Settles O15: POWER_ON empties every region of a block it makes live, and TEARDOWN leaves a block that
is not live, whose guard refuses both accesses. -/
theorem regionsLiveFromPowerOnToTeardown : Obligations.RegionsLiveFromPowerOnToTeardown := by
  unfold Obligations.RegionsLiveFromPowerOnToTeardown
  refine fun s t => ⟨fun h r off rest hoff => ?_, fun h r off b rest => ?_⟩
  · obtain ⟨-, rfl⟩ := exec_powerOn_eq_next.mp h
    have hnil : State.region { powerUp s.begin with requests := .memRead r off :: rest } r = [] :=
      (State.region_congr rfl rfl rfl r).trans (powerUp_region s.begin r)
    exact step_memRead_of_region_nil rfl rfl hoff hnil
  · obtain ⟨-, rfl⟩ := exec_teardown_eq_next.mp h
    exact ⟨⟨_, step_memRead_of_not_live rfl rfl⟩, ⟨_, step_memWrite_of_not_live rfl rfl⟩⟩

end Sys2Proof.Machine
end

section
/-! SUPPORT. The status value as a number, the sum of its three flags (41_status.md R134), and READ_STATUS,
which answers it (30_encoding.md R73). -/

namespace Sys2Proof.Machine

/-- The flags stand at different bits of the status value, so their weights add up. -/
theorem statusRead_toNat (v : Video) :
    (statusRead v).toNat = v.inVblank.toNat + 2 * v.inHblank.toNat + 4 * v.vcounterMatch.toNat := by
  unfold statusRead
  cases v.inVblank <;> cases v.inHblank <;> cases v.vcounterMatch <;> rfl

/-- Settles O52: a live block answers its status value, which is the sum of the flags. -/
theorem readStatusAnswersTheFlags : Obligations.ReadStatusAnswersTheFlags := by
  unfold Obligations.ReadStatusAnswersTheFlags
  exact fun s hl =>
    ⟨statusRead s.video, exec_readStatus_eq_next.mpr ⟨hl, rfl⟩, statusRead_toNat s.video⟩

end Sys2Proof.Machine
end

section
/-! SUPPORT. ADVANCE on a live block, and the common part of an End-of-Hblank in numbers
(40_timing.md R95). -/

namespace Sys2Proof.Machine

/-- A live block answers every ADVANCE, with the video fields of `advanceVideo`. -/
theorem exec_advance_of_live {s : State} (hl : s.live = true) (c : Word) :
    ∃ t, exec (.advance c) s = .next t ∧ t.video = advanceVideo c s.video :=
  ⟨_, exec_advance_eq_next.mpr ⟨hl, rfl⟩, advanceState_video c s.begin⟩

/-- The increment of the scanline and its wrap, from any line a settled state can have
(40_timing.md R95, R96). -/
theorem Video.Settled.settledEnd_scanline_toInt {v : Video} (hs : v.Settled) :
    (settledEnd v).scanline.toInt =
      if v.scanline.toInt + 1 = 228 then 0 else v.scanline.toInt + 1 := by
  obtain ⟨hlower, hupper⟩ := hs.lineRange
  have hwrap : v.scanline.toInt + 1 = 228 ↔ v.scanline.toInt = 227 := by omega
  simp only [hwrap]
  exact nextLine_toInt hlower hupper

/-- Settles O27: on a settled Hblank the event makes the fields of `settledEnd`, where E and H are both
1006 and the line is the next one. -/
theorem endOfHblankCommonPart : Obligations.EndOfHblankCommonPart := by
  unfold Obligations.EndOfHblankCommonPart
  intro s c hinv hl hb hd
  have hs : s.video.Settled := hinv.settled hl
  obtain ⟨t, ht, hvideo⟩ := exec_advance_of_live hl c
  rw [hs.finish hb hd] at hvideo
  refine ⟨t, ht, ?_⟩
  rw [hvideo]
  exact ⟨rfl, rfl, rfl, hs.settledEnd_scanline_toInt⟩

end Sys2Proof.Machine
end

section
/-! SUPPORT. A run of transactions, one transaction at a time, and what a run that ends no Hblank keeps: the
match flag, and silence on the vcounter interrupt (41_status.md R133). -/

namespace Sys2Proof.Machine

/-- A run begins with its first transaction's step and goes on from there. -/
theorem run_cons_eq_some {i : Instr} {is : List Instr} {s u : State} {evs : List OutputEvent} :
    run (i :: is) s = some (u, evs) ↔
      ∃ t rest, exec i s = .next t ∧ run is t = some (u, rest) ∧ t.outputs ++ rest = evs := by
  rw [run]
  cases exec i s <;> simp

/-- A transaction that ends no Hblank raises no vcounter interrupt (60_exceptions.md R184). -/
theorem vcounter_irq_notMem_of_no_endHblank {i : Instr} {s t : State} (h : exec i s = .next t)
    (hn : ¬ ∃ c, i = .advance c ∧ EventDue c s ∧ s.video.inHblank = true) :
    .irq .vcounter ∉ t.outputs := by
  rw [irq_mem_outputs_iff h]
  rintro ⟨c, hi, hd, hb, -⟩
  exact hn ⟨c, hi, hd, hb⟩

/-- Within a session, transactions that end no Hblank keep the match flag and raise no vcounter
interrupt. -/
theorem run_vcounter_of_noEndOfHblank {is : List Instr} {s u : State} {evs : List OutputEvent}
    (hrun : run is s = some (u, evs)) (hn : NoEndOfHblank is s) (hp : .powerOn ∉ is) :
    u.video.vcounterMatch = s.video.vcounterMatch ∧ .irq .vcounter ∉ evs := by
  induction is generalizing s evs with
  | nil => cases hrun; simp
  | cons i is ih =>
    obtain ⟨t, rest, ht, hrest, rfl⟩ := run_cons_eq_some.mp hrun
    obtain ⟨hfirst, hlater⟩ := hn
    obtain ⟨hi, his⟩ := List.ne_and_not_mem_of_not_mem_cons hp
    obtain ⟨hmatch, hsilent⟩ := ih hrest (hlater t ht) his
    refine ⟨hmatch.trans (exec_vcounterMatch_of_no_endHblank ht (Ne.symm hi) hfirst), ?_⟩
    exact List.not_mem_append (vcounter_irq_notMem_of_no_endHblank ht hfirst) hsilent

/-- A live block admits WRITE_STATUS, which emits nothing and leaves the renderer. -/
theorem exec_writeStatus_of_live {s : State} (hl : s.live = true) (v : Half) :
    ∃ t, exec (.writeStatus v) s = .next t ∧ t.outputs = [] ∧ t.renderer = s.renderer :=
  ⟨_, exec_writeStatus_eq_next.mpr ⟨hl, rfl⟩, rfl, rfl⟩

/-- Settles O50: WRITE_STATUS replaces the enables, the target and CI only, and every run from there that
ends no Hblank keeps the match flag without a vcounter interrupt. -/
theorem writeStatusChangesNothingElse : Obligations.WriteStatusChangesNothingElse := by
  unfold Obligations.WriteStatusChangesNothingElse
  intro s v hl
  obtain ⟨t, ht, houtputs, hrenderer⟩ := exec_writeStatus_of_live hl v
  have hvideo := (exec_writeStatus_video ht).trans (writeStatusVideo_eq v s.video)
  have hmatch : t.video.vcounterMatch = s.video.vcounterMatch := by rw [hvideo]
  have hrun : ∀ is u evs, run is t = some (u, evs) → NoEndOfHblank is t → .powerOn ∉ is →
      u.video.vcounterMatch = s.video.vcounterMatch ∧ .irq .vcounter ∉ evs := by
    intro is u evs hrun hn hp
    obtain ⟨hkept, hsilent⟩ := run_vcounter_of_noEndOfHblank hrun hn hp
    exact ⟨hkept.trans hmatch, hsilent⟩
  refine ⟨t, ht, houtputs, ?_⟩
  rw [hvideo]
  exact ⟨rfl, rfl, rfl, rfl, rfl, rfl, rfl, rfl, rfl, rfl, hrenderer, hrun⟩

end Sys2Proof.Machine
end

section
/-! SUPPORT. The agreement of the decoder with the encoder, the opcode table and the assembler
(30_encoding.md). -/

namespace Sys2Proof

/-! ### The word a transaction was decoded from (30_encoding.md R70, R71) -/

/-- The transaction's op stands in the word, its must-be-zero field is zero there and its operands are
the word's. -/
def Instr.StandsIn (w : CommandWord) : Instr → Prop
  | .advance c         => field w 63 61 = 0 ∧ field w 60 31 = 0 ∧ BitVec.ofNat 32 (field w 30 0) = c
  | .writeStatus v     => field w 63 61 = 1 ∧ field w 60 16 = 0 ∧ BitVec.ofNat 16 (field w 15 0) = v
  | .readStatus        => field w 63 61 = 2 ∧ field w 60 0 = 0
  | .writeVideoReg a v => field w 63 61 = 3 ∧ field w 60 48 = 0 ∧
      BitVec.ofNat 32 (field w 47 16) = a ∧ BitVec.ofNat 16 (field w 15 0) = v
  | .attachRenderer h  => field w 63 61 = 4 ∧ field w 60 32 = 0 ∧ BitVec.ofNat 32 (field w 31 0) = h
  | .powerOn           => field w 63 61 = 5 ∧ field w 60 0 = 0
  | .teardown          => field w 63 61 = 6 ∧ field w 60 0 = 0

theorem decode_eq_instr_iff {w : CommandWord} {i : Instr} : decode w = .instr i ↔ i.StandsIn w := by
  constructor
  · intro h
    rw [decode_of_op rfl] at h
    repeat' split at h
    case isFalse.isFalse.isFalse.isFalse.isFalse.isFalse.isFalse => cases h
    all_goals
      obtain ⟨hz, rfl⟩ := (requireZero_eq_instr _ _ _).mp h
      simp [Instr.StandsIn, *]
  · intro h
    cases i <;> simp [Instr.StandsIn] at h <;> simp [decode_of_op h.1, h.2]

/-- The op, a zero must-be-zero field and the operands make up the whole word, so a word that decodes is
the encoding of what it decodes to. -/
theorem encode_eq_of_decode {w : CommandWord} {i : Instr} (h : decode w = .instr i) :
    i.WellFormed ∧ encode i = w := by
  have hf : i.StandsIn w := decode_eq_instr_iff.mp h
  have hw := w.isLt
  rw [← BitVec.toNat_inj, encode_toNat]
  cases i with
  | advance c =>
    obtain ⟨hop, hz, rfl⟩ := hf
    simp only [field] at hop hz
    have hwf : (BitVec.ofNat 32 (field w 30 0)).toNat < 2 ^ 31 := by
      simp only [field, BitVec.toNat_ofNat]; omega
    refine ⟨decide_eq_true hwf, ?_⟩
    simp only [field, Instr.wordNat, BitVec.toNat_ofNat]; omega
  | writeStatus | attachRenderer =>
    obtain ⟨hop, hz, rfl⟩ := hf
    simp only [field] at hop hz
    refine ⟨rfl, ?_⟩
    simp only [field, Instr.wordNat, BitVec.toNat_ofNat]; omega
  | writeVideoReg a v =>
    obtain ⟨hop, hz, rfl, rfl⟩ := hf
    simp only [field] at hop hz
    refine ⟨rfl, ?_⟩
    simp only [field, Instr.wordNat, BitVec.toNat_ofNat]; omega
  | readStatus | powerOn | teardown =>
    obtain ⟨hop, hz⟩ := hf
    simp only [field] at hop hz
    refine ⟨rfl, ?_⟩
    simp only [Instr.wordNat]; omega

/-- The family Roundtrip, over all transactions. -/
theorem decode_encode (i : Instr) : Laws.Roundtrip.Statement i := by
  cases i with
  | advance c         => exact Laws.Roundtrip.advance c
  | writeStatus v     => exact Laws.Roundtrip.writeStatus v
  | readStatus        => exact Laws.Roundtrip.readStatus
  | writeVideoReg a v => exact Laws.Roundtrip.writeVideoReg a v
  | attachRenderer r  => exact Laws.Roundtrip.attachRenderer r
  | powerOn           => exact Laws.Roundtrip.powerOn
  | teardown          => exact Laws.Roundtrip.teardown

/-- Settles O1: what a word decodes to encodes back to it, and a well-formed transaction decodes back. -/
theorem decodeAndEncodeAgree : Obligations.DecodeAndEncodeAgree := by
  unfold Obligations.DecodeAndEncodeAgree
  exact fun w i => ⟨encode_eq_of_decode, fun ⟨hwf, hw⟩ => hw ▸ decode_encode i hwf⟩

/-! ### The rows of the opcode table (30_encoding.md R71, R75) -/

/-- How many low bits of a command word a transaction's operands take. -/
def Instr.operandBits : Instr → Nat
  | .advance _         => 31
  | .writeStatus _     => 16
  | .writeVideoReg _ _ => 48
  | .attachRenderer _  => 32
  | .readStatus | .powerOn | .teardown => 0

/-- Masking with all ones from bit `k` up clears the bits below. -/
theorem toNat_and_shiftLeft_allOnes (w : CommandWord) (k : Nat) :
    (w &&& BitVec.allOnes 64 <<< k).toNat = w.toNat / 2 ^ k * 2 ^ k := by
  have h : w &&& BitVec.allOnes 64 <<< k = w >>> k <<< k := by
    ext n hn
    by_cases hk : n < k
    · simp [hk, -BitVec.reduceAllOnes]
    · simp [hk, hn, show k + (n - k) = n by omega, -BitVec.reduceAllOnes]
  have hle : w.toNat / 2 ^ k * 2 ^ k ≤ w.toNat := Nat.div_mul_le_self _ _
  rw [h, BitVec.toNat_shiftLeft, BitVec.toNat_ushiftRight, Nat.shiftLeft_eq, Nat.shiftRight_eq_div_pow,
    Nat.mod_eq_of_lt (Nat.lt_of_le_of_lt hle w.isLt)]

theorem row_mask (i : Instr) : i.row.mask = BitVec.allOnes 64 <<< i.operandBits := by
  cases i <;> simp only [Instr.row, Instr.operandBits] <;> decide

/-- A row selects a word by the bits above the operands. -/
theorem row_selects_iff (i : Instr) (w : CommandWord) :
    i.row.selects w ↔ w.toNat / 2 ^ i.operandBits * 2 ^ i.operandBits = i.row.value.toNat := by
  rw [OpcodeRow.selects, row_mask, ← BitVec.toNat_inj, toNat_and_shiftLeft_allOnes]

theorem row_mem_opcodeTable (i : Instr) : i.row ∈ opcodeTable := by
  cases i <;> simp [opcodeTable, Instr.row]

theorem encode_selected (i : Instr) (hwf : i.WellFormed) : i.row.selects (encode i) := by
  rw [row_selects_iff, encode_toNat]
  cases i with
  | advance c =>
    have hc : c.toNat < 2 ^ 31 := of_decide_eq_true hwf
    simp only [Instr.wordNat, Instr.operandBits, Instr.row, BitVec.toNat_ofNat]; omega
  | writeStatus | readStatus | writeVideoReg | attachRenderer | powerOn | teardown =>
    simp only [Instr.wordNat, Instr.operandBits, Instr.row, BitVec.toNat_ofNat]; omega

/-- A word that the row of a transaction selects has the op and the zero field of that row, so it names
a transaction of the row. -/
theorem exists_decode_of_selects {w : CommandWord} {r : OpcodeRow} (hr : r ∈ opcodeTable)
    (hs : r.selects w) : ∃ i, decode w = .instr i ∧ i.row = r := by
  have hw := w.isLt
  simp only [decode_eq_instr_iff]
  simp only [opcodeTable, List.mem_cons, List.not_mem_nil, or_false] at hr
  obtain rfl | rfl | rfl | rfl | rfl | rfl | rfl := hr
  all_goals
    rw [row_selects_iff] at hs
    simp only [Instr.operandBits, Instr.row, BitVec.toNat_ofNat] at hs
  · refine ⟨.advance (BitVec.ofNat 32 (field w 30 0)), ?_, rfl⟩
    simp only [Instr.StandsIn, field, and_true]; omega
  · refine ⟨.writeStatus (BitVec.ofNat 16 (field w 15 0)), ?_, rfl⟩
    simp only [Instr.StandsIn, field, and_true]; omega
  · refine ⟨.readStatus, ?_, rfl⟩
    simp only [Instr.StandsIn, field]; omega
  · refine ⟨.writeVideoReg (BitVec.ofNat 32 (field w 47 16)) (BitVec.ofNat 16 (field w 15 0)), ?_, rfl⟩
    simp only [Instr.StandsIn, field, and_true]; omega
  · refine ⟨.attachRenderer (BitVec.ofNat 32 (field w 31 0)), ?_, rfl⟩
    simp only [Instr.StandsIn, field, and_true]; omega
  · refine ⟨.powerOn, ?_, rfl⟩
    simp only [Instr.StandsIn, field]; omega
  · refine ⟨.teardown, ?_, rfl⟩
    simp only [Instr.StandsIn, field]; omega

theorem selects_of_decode {w : CommandWord} {i : Instr} (h : decode w = .instr i) : i.row.selects w := by
  obtain ⟨hwf, rfl⟩ := encode_eq_of_decode h
  exact encode_selected i hwf

/-- Settles O2: a word that decodes is the encoding of its transaction, which its row selects; a word
that a row selects has the fields of a transaction of that row. -/
theorem tableRowsSelectWhatDecodes : Obligations.TableRowsSelectWhatDecodes := by
  unfold Obligations.TableRowsSelectWhatDecodes
  exact fun w => ⟨fun i h => ⟨row_mem_opcodeTable i, selects_of_decode h⟩,
    fun _ hr hs => exists_decode_of_selects hr hs⟩

/-! ### Invalid words (30_encoding.md R71, R76) -/

theorem decode_eq_reservedOp_iff (w : CommandWord) :
    decode w = .invalid .reservedOp ↔ field w 63 61 = 7 := by
  have hop := field_op_lt w
  rw [decode_of_op rfl]
  repeat' split
  case isFalse.isFalse.isFalse.isFalse.isFalse.isFalse.isFalse => simp; omega
  all_goals simp; omega

/-- A word is invalid for its must-be-zero bits exactly when it is neither a transaction, which its row
would select, nor reserved. -/
theorem decode_eq_mbzNonZero_iff (w : CommandWord) :
    decode w = .invalid .mbzNonZero ↔
      field w 63 61 ≠ 7 ∧ ∀ r ∈ opcodeTable, ¬ r.selects w := by
  rw [Ne, ← decode_eq_reservedOp_iff w]
  constructor
  · intro h
    refine ⟨by simp [h], fun r hr hs => ?_⟩
    obtain ⟨i, hi, -⟩ := exists_decode_of_selects hr hs
    simp [h] at hi
  · rintro ⟨hop, hrows⟩
    cases hd : decode w with
    | instr i => exact absurd (selects_of_decode hd) (hrows _ (row_mem_opcodeTable i))
    | invalid reason =>
      cases reason with
      | reservedOp => exact absurd hd hop
      | mbzNonZero => rfl

/-- Settles O3: the reserved op is one of eight, and what is neither reserved nor in a row is left. -/
theorem invalidWordsAreNamed : Obligations.InvalidWordsAreNamed := by
  unfold Obligations.InvalidWordsAreNamed
  exact fun w => ⟨decode_eq_reservedOp_iff w, decode_eq_mbzNonZero_iff w⟩

/-- Settles O4, word by word from the table. -/
theorem specWordsDecode : Obligations.SpecWordsDecode := by
  unfold Obligations.SpecWordsDecode
  decide

/-! ### The assembler (30_encoding.md R79, R80) -/

theorem asmWhen_eq_ok {fits : Bool} {is js : List Instr} :
    asmWhen fits is = .ok js ↔ fits = true ∧ is = js := by
  cases fits <;> simp [asmWhen]

/-- Every line that assembles stands for well-formed transactions: only `advance` has an operand that
its field does not bound, and the line checks it. -/
theorem wellFormed_of_expand {p : Params} {l : AsmLine} {is : List Instr} (h : l.expand p = .ok is) :
    ∀ i ∈ is, i.WellFormed := by
  cases l with
  | advance c =>
    obtain ⟨hc, rfl⟩ := asmWhen_eq_ok.mp h
    have hc : c < 2 ^ 31 := of_decide_eq_true hc
    have hwf : (BitVec.ofNat 32 c).toNat < 2 ^ 31 := by rw [BitVec.toNat_ofNat]; omega
    simpa [Instr.WellFormed, Instr.wellFormed] using hwf
  | wrstat | wrvreg | attach | stat =>
    obtain ⟨-, rfl⟩ := asmWhen_eq_ok.mp h
    simp [Instr.WellFormed, Instr.wellFormed]
  | rdstat | poweron | teardown | detach | line => cases h; decide
  | busw16 a v =>
    simp only [AsmLine.expand] at h
    repeat' split at h
    all_goals cases h
    all_goals simp [Instr.WellFormed, Instr.wellFormed]

/-- A listing assembles line by line, each line to the encodings of what it stands for. -/
theorem assemble_cons_eq_ok {p : Params} {l : AsmLine} {ls : List AsmLine} {ws : List CommandWord} :
    assemble p (l :: ls) = .ok ws ↔
      ∃ is vs, l.expand p = .ok is ∧ assemble p ls = .ok vs ∧ is.map encode ++ vs = ws := by
  rw [assemble]
  cases l.expand p <;> cases assemble p ls <;> simp

theorem assemble_singleton {p : Params} {l : AsmLine} {i : Instr} (h : l.expand p = .ok [i]) :
    assemble p [l] = .ok [encode i] :=
  assemble_cons_eq_ok.mpr ⟨[i], [], h, rfl, rfl⟩

theorem map_decode_encode {is : List Instr} (h : ∀ i ∈ is, i.WellFormed) :
    (is.map encode).map decode = is.map .instr := by
  rw [List.map_map]
  exact List.map_congr_left fun i hi => decode_encode i (h i hi)

/-- The words of a listing decode back, by induction on its lines. -/
theorem assembled_words_decode {p : Params} {ls : List AsmLine} {ws : List CommandWord}
    (h : assemble p ls = .ok ws) :
    ∃ iss, List.Forall₂ (fun l is => AsmLine.expand p l = .ok is) ls iss ∧
      (∀ i ∈ iss.flatten, i.WellFormed) ∧ ws.map decode = iss.flatten.map .instr := by
  induction ls generalizing ws with
  | nil => cases h; exact ⟨[], .nil, by simp, rfl⟩
  | cons l ls ih =>
    obtain ⟨is, vs, hl, hls, rfl⟩ := assemble_cons_eq_ok.mp h
    obtain ⟨iss, hexp, hwf, hdec⟩ := ih hls
    have his := wellFormed_of_expand hl
    refine ⟨is :: iss, .cons hl hexp, ?_, ?_⟩
    · rw [List.flatten_cons]
      exact List.forall_mem_append.mpr ⟨his, hwf⟩
    · rw [List.flatten_cons, List.map_append, List.map_append, map_decode_encode his, hdec]

/-- An operand that fits its field is the same number in the command word. -/
theorem setWidth_ofNat_of_lt {n x : Nat} (hx : x < 2 ^ n) :
    (BitVec.ofNat n x).setWidth 64 = BitVec.ofNat 64 x := by
  rw [← BitVec.toNat_inj]
  simp [Nat.mod_eq_of_lt hx]

/-- A line with one operand check stands for its transaction, and assembles to the word of it, when the
operand fits, and is an error otherwise. -/
theorem asmWhen_line {p : Params} {l : AsmLine} {i : Instr} {w : CommandWord} {fits : Prop}
    [Decidable fits] (hl : l.expand p = asmWhen (decide fits) [i]) (hw : fits → encode i = w) :
    (fits → l.expand p = .ok [i] ∧ assemble p [l] = .ok [w]) ∧
      (¬ fits → l.expand p = .error .operandTooLarge) := by
  refine ⟨fun hf => ?_, fun hf => by simp [hl, asmWhen, hf]⟩
  have hok : l.expand p = .ok [i] := by simp [hl, asmWhen, hf]
  exact ⟨hok, by rw [assemble_singleton hok, hw hf]⟩

/-- Settles O5: each form by its operand check, and the decoding of a listing by induction. -/
theorem assembledLinesDecodeBack : Obligations.AssembledLinesDecodeBack := by
  unfold Obligations.AssembledLinesDecodeBack
  intro p
  refine ⟨fun c => ?_, fun v => ?_, fun a v => ?_, fun h => ?_, ⟨rfl, rfl⟩, ⟨rfl, rfl⟩, ⟨rfl, rfl⟩,
    fun ls ws => assembled_words_decode⟩
  · obtain ⟨hok, herr⟩ := asmWhen_line (p := p) (l := .advance c) rfl
      fun hc => congrArg (0b000#64 <<< 61 ||| ·) (setWidth_ofNat_of_lt (Nat.lt_trans hc (by decide)))
    exact ⟨hok, fun hc => herr (Nat.not_lt.mpr hc)⟩
  · obtain ⟨hok, herr⟩ := asmWhen_line (p := p) (l := .wrstat v) rfl
      fun hv => congrArg (0b001#64 <<< 61 ||| ·) (setWidth_ofNat_of_lt hv)
    exact ⟨hok, fun hc => herr (Nat.not_lt.mpr hc)⟩
  · obtain ⟨hok, herr⟩ := asmWhen_line (p := p) (l := .wrvreg a v)
      (i := .writeVideoReg (BitVec.ofNat 32 a) (BitVec.ofNat 16 v))
      (fits := a < 2 ^ 32 ∧ v < 2 ^ 16) (by rw [AsmLine.expand, Bool.decide_and])
      fun ⟨ha, hv⟩ => congrArg₂ (fun x y : CommandWord => 0b011#64 <<< 61 ||| x <<< 16 ||| y)
        (setWidth_ofNat_of_lt ha) (setWidth_ofNat_of_lt hv)
    exact ⟨fun ha hv => hok ⟨ha, hv⟩, fun h => herr (by omega)⟩
  · obtain ⟨hok, herr⟩ := asmWhen_line (p := p) (l := .attach h) rfl
      fun hh => congrArg (0b100#64 <<< 61 ||| ·) (setWidth_ofNat_of_lt hh)
    exact ⟨hok, fun hc => herr (Nat.not_lt.mpr hc)⟩

/-! ### The pseudo-instructions (30_encoding.md R80) -/

/-- The status value of a `stat` line has its operands as fields and no other bit. -/
theorem stat_value_fields {ve he ce target : Nat} (hve : ve ≤ 1) (hhe : he ≤ 1) (hce : ce ≤ 1)
    (ht : target < 256) {v : Half}
    (hv : v = BitVec.ofNat 16 (target * 256 + ce * 32 + he * 16 + ve * 8)) :
    v.getLsbD 3 = decide (ve = 1) ∧ v.getLsbD 4 = decide (he = 1) ∧ v.getLsbD 5 = decide (ce = 1) ∧
      v.toNat / 256 = target ∧ v.toNat % 8 = 0 ∧ v.toNat / 64 % 4 = 0 := by
  have hn : v.toNat = target * 256 + ce * 32 + he * 16 + ve * 8 := by
    rw [hv, BitVec.toNat_ofNat]; omega
  simp only [BitVec.getLsbD, Nat.testBit_eq_decide_div_mod_eq, decide_eq_decide, hn]
  omega

/-- Settles O6: by the definition of each line, the fields of `stat` as digits of its value. -/
theorem pseudoInstructionsExpand : Obligations.PseudoInstructionsExpand := by
  unfold Obligations.PseudoInstructionsExpand
  refine fun p => ⟨rfl, rfl, fun ve he ce target hve hhe hce ht => ?_, fun a v => ?_⟩
  · refine ⟨_, ?_, stat_value_fields hve hhe hce ht rfl⟩
    simp [AsmLine.expand, asmWhen, hve, hhe, hce, ht]
  · have hfits : a.toNat < 2 ^ 32 ∧ v.toNat < 2 ^ 16 := ⟨a.isLt, v.isLt⟩
    simp only [AsmLine.expand, if_pos hfits, BitVec.ofNat_toNat, BitVec.setWidth_eq]

end Sys2Proof
end

section
/-! SUPPORT. The step, request by request; what every step keeps; when a transaction is admitted; byte
accesses, single and wide (20_memory.md, 10_state.md R30 to R36). -/

namespace Sys2Proof.Machine

/-! ### Command words and register accesses (30_encoding.md R76, 20_memory.md R55, R56) -/

/-- Settles O7: a command word resolves to the transaction it decodes to. -/
theorem stepRunsDecodedTransaction : Obligations.StepRunsDecodedTransaction := by
  unfold Obligations.StepRunsDecodedTransaction
  intro s w rest i hreq hdec
  rw [step_of_request hreq, resolve_command hdec]
  rfl

theorem step_of_invalid_command {s : State} {w : CommandWord} {rest : List HostRequest}
    {reason : InvalidReason} (hreq : s.requests = .command w :: rest)
    (hdec : decode w = .invalid reason) : step s = .refused (invalidRefusal reason) := by
  rw [step_of_request hreq]
  simp [resolve, resolveCommand, hdec]

/-- Settles O8: an invalid word is refused under the name of its reason. -/
theorem stepRefusesInvalidWords : Obligations.StepRefusesInvalidWords := by
  unfold Obligations.StepRefusesInvalidWords
  exact fun s w rest hreq => ⟨step_of_invalid_command hreq, step_of_invalid_command hreq⟩

/-- `IsVideoReg` of an address other than the status register's, as membership of a range. -/
theorem isVideoReg_iff {p : Params} {a : Addr} (ha : a ≠ p.statusRegAddr) :
    p.isVideoReg a = true ↔ ∃ g ∈ p.videoRegs, g.first.toNat ≤ a.toNat ∧ a.toNat ≤ g.last.toNat := by
  simp [Params.isVideoReg, ha]

/-- Settles O9: the status address first, then the ranges, as the register I/O surface decodes. -/
theorem stepDecodesBusAccesses : Obligations.StepDecodesBusAccesses := by
  unfold Obligations.StepDecodesBusAccesses
  refine fun s a v rest => ⟨fun hreq => ?_, fun hreq => ?_⟩
  · rw [step_of_request hreq]
    by_cases ha : a = s.params.statusRegAddr
    · simp [resolve, resolveBusWrite16, ha, perform]
    · by_cases hg : ∃ g ∈ s.params.videoRegs, g.first.toNat ≤ a.toNat ∧ a.toNat ≤ g.last.toNat
      · rw [if_neg ha, if_pos hg]
        simp [resolve, resolveBusWrite16, ha, (isVideoReg_iff ha).mpr hg, perform]
      · rw [if_neg ha, if_neg hg]
        simp [resolve, resolveBusWrite16, ha, mt (isVideoReg_iff ha).mp hg]
  · rw [step_of_request hreq]
    by_cases ha : a = s.params.statusRegAddr <;> simp [resolve, resolveBusRead16, ha, perform]

/-- Settles O10: the four other widths resolve to the same refusal. -/
theorem stepRefusesOtherWidths : Obligations.StepRefusesOtherWidths := by
  unfold Obligations.StepRefusesOtherWidths
  exact fun s a b v rest => ⟨fun h => step_of_request h, fun h => step_of_request h,
    fun h => step_of_request h, fun h => step_of_request h⟩

/-- Settles O11: the idle step. -/
theorem stepIdlesWithoutRequest : Obligations.StepIdlesWithoutRequest := by
  unfold Obligations.StepIdlesWithoutRequest
  exact fun _ => step_of_no_request

/-! ### Byte accesses (20_memory.md R54) -/

/-- Settles O13: a read of a valid offset on a live block. -/
theorem hostReadAnswersTheByte : Obligations.HostReadAnswersTheByte := by
  unfold Obligations.HostReadAnswersTheByte
  exact fun s r off rest hl hoff hreq => step_memRead_of_live hreq hl hoff

theorem region_with_requests (s : State) (rest : List HostRequest) (r : Region) :
    State.region { s with requests := rest } r = s.region r := State.region_congr rfl rfl rfl r

/-- The state after a step on a byte write: the byte stored, the requests `rest` left. -/
def State.written (s : State) (r : Region) (off : Nat) (b : Byte) (rest : List HostRequest) : State :=
  State.setRegion { s.begin with requests := rest } r ((s.region r).write off b)

@[simp] theorem State.written_live (s : State) (r : Region) (off : Nat) (b : Byte)
    (rest : List HostRequest) : (s.written r off b rest).live = s.live := by simp [State.written]
@[simp] theorem State.written_params (s : State) (r : Region) (off : Nat) (b : Byte)
    (rest : List HostRequest) : (s.written r off b rest).params = s.params := by simp [State.written]
@[simp] theorem State.written_requests (s : State) (r : Region) (off : Nat) (b : Byte)
    (rest : List HostRequest) : (s.written r off b rest).requests = rest := by simp [State.written]
@[simp] theorem State.written_region (s : State) (r : Region) (off : Nat) (b : Byte)
    (rest : List HostRequest) :
    (s.written r off b rest).region r = (s.region r).write off b := by simp [State.written]

/-- A live block's step on a write of a valid offset. -/
theorem step_memWrite_of_live {s : State} {r : Region} {off : Nat} {b : Byte} {rest : List HostRequest}
    (hreq : s.requests = .memWrite r off b :: rest) (hl : s.live = true)
    (hoff : off < regionSize s.params r) : step s = .next (s.written r off b rest) := by
  rw [step_of_memWrite hreq, hostWrite_eq_next]
  exact ⟨hl, hoff, by rw [region_with_requests]; rfl⟩

/-- Every region byte after such a step. -/
theorem State.written_regionByte {s : State} {r : Region} (hm : (s.region r).wf) (off : Nat) (b : Byte)
    (rest : List HostRequest) (q : Region) (x : Nat) :
    (s.written r off b rest).regionByte q x = if q = r ∧ x = off then b else s.regionByte q x := by
  have hregion : ∀ q, State.region { s.begin with requests := rest } q = s.region q :=
    State.region_congr rfl rfl rfl
  rw [State.written, ← hregion r, regionByte_setRegion_write (by rw [hregion]; exact hm)]
  simp only [State.regionByte, hregion]

/-- Settles O14: the write replaces the contents of one region, one byte of which reads differently. -/
theorem hostWriteStoresOneByte : Obligations.HostWriteStoresOneByte := by
  unfold Obligations.HostWriteStoresOneByte
  intro s r off b rest hl hoff hm hreq
  refine ⟨_, step_memWrite_of_live hreq hl hoff, ?_, fun q x hne => ?_, ?_⟩
  · rw [State.written_regionByte hm, if_pos ⟨rfl, rfl⟩]
  · rw [State.written_regionByte hm, if_neg (by simpa [Prod.ext_iff] using hne)]
  · simp [State.written]

theorem whenOffset_of_bad_offset {r : Region} {off : Nat} {s : State} (hl : s.live = true)
    (hoff : regionSize s.params r ≤ off) (body : State → State) :
    whenOffset r off s body = .refused .badOffset := by
  rw [whenOffset, whenLive_of_live hl]
  exact if_neg (Nat.not_lt.mpr hoff)

/-- Settles O16: both accesses pass the same guard, the live flag before the offset. -/
theorem hostAccessRefusals : Obligations.HostAccessRefusals := by
  unfold Obligations.HostAccessRefusals
  rintro s r off b rest (hreq | hreq)
  · refine ⟨step_memRead_of_not_live hreq, fun hl hoff => ?_⟩
    rw [step_of_memRead hreq]
    exact whenOffset_of_bad_offset (s := { s with requests := rest }) hl hoff _
  · refine ⟨step_memWrite_of_not_live hreq, fun hl hoff => ?_⟩
    rw [step_of_memWrite hreq]
    exact whenOffset_of_bad_offset (s := { s with requests := rest }) hl hoff _

/-! ### Wide writes (20_memory.md R58) -/

theorem core_run_succ {s u : State} (h : step s = .next u) (k : Nat) :
    Host.Core.run Sys2Proof.core (k + 1) s = Host.Core.run Sys2Proof.core k u := by
  simp only [Host.Core.run, show Sys2Proof.core.step s = .next u from h]

/-- A row of byte writes at rising offsets, by induction on its length: each offset of the row reads as
its byte, every other as before. -/
theorem run_memWrites (r : Region) {n : Nat} {s : State} {off : Nat} {f : Nat → Byte}
    (hl : s.live = true) (hm : (s.region r).wf) (hoff : off + n ≤ regionSize s.params r)
    (hreq : s.requests = (List.range n).map fun k => .memWrite r (off + k) (f k)) :
    ∃ t : State, Host.Core.run Sys2Proof.core n s = .next t ∧ t.params = s.params ∧
      ∀ q x, t.regionByte q x =
        if q = r ∧ off ≤ x ∧ x < off + n then f (x - off) else s.regionByte q x := by
  induction n generalizing s off f with
  | zero => exact ⟨s, rfl, rfl, fun q x => by rw [if_neg (by omega)]⟩
  | succ n ih =>
    have hrow : s.requests = .memWrite r off (f 0) ::
        (List.range n).map fun k => .memWrite r (off + 1 + k) (f (k + 1)) := by
      rw [hreq, List.range_succ_eq_map]
      simp [Nat.add_assoc, Nat.add_comm 1]
    obtain ⟨t, hrun, hparams, ht⟩ := ih (s := s.written r off (f 0) _) (off := off + 1)
      (f := fun k => f (k + 1)) (by rw [State.written_live, hl])
      (by rw [State.written_region]; exact Memory.wf_write hm _ _)
      (by rw [State.written_params]; omega) (State.written_requests ..)
    refine ⟨t, ?_, hparams.trans (State.written_params ..), fun q x => ?_⟩
    · exact (core_run_succ (step_memWrite_of_live hrow hl (by omega)) n).trans hrun
    · rw [ht, State.written_regionByte hm]
      by_cases hq : q = r
      · simp only [hq, true_and]
        obtain hx | hx | hx :
            x = off ∨ (off + 1 ≤ x ∧ x < off + 1 + n) ∨ (x < off ∨ off + 1 + n ≤ x) := by omega
        · rw [if_neg (by omega), if_pos hx, if_pos (by omega), hx, Nat.sub_self]
        · rw [if_pos hx, if_pos (by omega), show x - (off + 1) + 1 = x - off by omega]
        · rw [if_neg (by omega), if_neg (by omega), if_neg (by omega)]
      · simp [hq]

/-- The base-256 digits of a number add up to it, modulo their range. -/
theorem sum_bytes_little (value n : Nat) :
    ∑ k ∈ Finset.range n, value / 256 ^ k % 256 * 256 ^ k = value % 256 ^ n := by
  induction n with
  | zero => simp [Nat.mod_one]
  | succ n ih => rw [Finset.sum_range_succ, ih, Nat.mod_pow_succ, Nat.mul_comm (256 ^ n)]

/-- The bytes of a value in either order, each weighted by its lane, add up to the value: the big order
is the little one read from the other end. -/
theorem sum_bytes (order : ByteOrder) (value n : Nat) :
    ((List.range n).map fun k =>
      value / 256 ^ lane order n k % 256 * 256 ^ lane order n k).sum = value % 256 ^ n := by
  change ∑ k ∈ Finset.range n, value / 256 ^ lane order n k % 256 * 256 ^ lane order n k = _
  cases order with
  | little => exact sum_bytes_little value n
  | big =>
    rw [← sum_bytes_little]
    exact Finset.sum_range_reflect (fun k => value / 256 ^ k % 256 * 256 ^ k) n

/-- Settles O17: the row of writes puts each byte at its offset, and the bytes add up to the value. -/
theorem wideHostWriteReadsBack : Obligations.WideHostWriteReadsBack := by
  unfold Obligations.WideHostWriteReadsBack
  intro s r off n value hinv hl hoff hreq
  obtain ⟨t, hrun, hparams, ht⟩ := run_memWrites r hl (hinv.canonical r) hoff hreq
  refine ⟨t, hrun, ?_, fun q x hout => ?_⟩
  · rw [State.wideValue, hparams, ← sum_bytes s.params.regionByteOrder value n]
    refine congrArg List.sum (List.map_congr_left fun k hk => ?_)
    have hk : k < n := List.mem_range.mp hk
    rw [ht, if_pos ⟨rfl, by omega, by omega⟩, Nat.add_sub_cancel_left, BitVec.toNat_ofNat]
  · rw [ht, if_neg]
    rintro ⟨hq, hlower, hupper⟩
    obtain h | h | h := hout
    · exact h hq
    · omega
    · omega

/-! ### Which transactions are admitted (10_state.md R30) -/

/-- Settles O20: the guard of each transaction is its admission. -/
theorem transactionsCompleteExactlyWhenAdmitted :
    Obligations.TransactionsCompleteExactlyWhenAdmitted := by
  unfold Obligations.TransactionsCompleteExactlyWhenAdmitted
  intro i s
  cases i with
  | advance c         => simp [Admitted, exec_advance_eq_next]
  | writeStatus v     => simp [Admitted, exec_writeStatus_eq_next]
  | readStatus        => simp [Admitted, exec_readStatus_eq_next]
  | writeVideoReg a v => simp [Admitted, exec_writeVideoReg_eq_next]
  | attachRenderer h  => simp [Admitted, exec_attachRenderer_eq_next]
  | powerOn           => simp [Admitted, exec_powerOn_eq_next]
  | teardown          => simp [Admitted, exec_teardown_eq_next]

/-- Settles O21: a failed guard refuses, and only the pass-through has a second guard. -/
theorem refusedTransactionsSayWhy : Obligations.RefusedTransactionsSayWhy := by
  unfold Obligations.RefusedTransactionsSayWhy
  intro i s hadm
  cases i with
  | powerOn =>
    have hl : s.live = true := by simpa [Admitted] using hadm
    simp [exec, execPowerOn, hl]
  | writeVideoReg a v =>
    cases hl : s.live with
    | false => simpa [exec, execWriteVideoReg] using whenLive_of_not_live hl _
    | true =>
      have ha : a = s.params.statusRegAddr := by simpa [Admitted, hl] using hadm
      simp [exec, execWriteVideoReg, whenLive_of_live hl, ha]
  | advance | writeStatus | readStatus | attachRenderer | teardown =>
    have hl : s.live = false := by simpa [Admitted] using hadm
    simp [exec, execAdvance, execWriteStatus, execReadStatus, execAttachRenderer, execTeardown,
      whenLive_of_not_live hl, hl]

/-! ### What every step keeps -/

/-- No transaction writes the parameters or the host's requests. -/
theorem exec_params_requests {i : Instr} {s t : State} (h : exec i s = .next t) :
    t.params = s.params ∧ t.requests = s.requests := by
  cases i with
  | advance c => obtain ⟨-, rfl⟩ := exec_advance_eq_next.mp h; simp
  | writeStatus v => obtain ⟨-, rfl⟩ := exec_writeStatus_eq_next.mp h; simp
  | readStatus => obtain ⟨-, rfl⟩ := exec_readStatus_eq_next.mp h; simp
  | writeVideoReg a v => obtain ⟨-, -, rfl⟩ := exec_writeVideoReg_eq_next.mp h; simp
  | attachRenderer r => obtain ⟨-, rfl⟩ := exec_attachRenderer_eq_next.mp h; simp
  | powerOn => obtain ⟨-, rfl⟩ := exec_powerOn_eq_next.mp h; exact ⟨rfl, rfl⟩
  | teardown => obtain ⟨-, rfl⟩ := exec_teardown_eq_next.mp h; exact ⟨rfl, rfl⟩

theorem perform_params_requests {a : Access} {s t : State} (h : perform a s = .next t) :
    t.params = s.params ∧ t.requests = s.requests := by
  cases a with
  | transaction i => exact exec_params_requests h
  | memRead r off => obtain ⟨-, -, rfl⟩ := hostRead_eq_next.mp h; exact ⟨rfl, rfl⟩
  | memWrite r off b => obtain ⟨-, -, rfl⟩ := hostWrite_eq_next.mp h; simp

/-- Settles O12: the step takes its request off the list, and what it performs touches neither. -/
theorem stepKeepsParamsAndTakesOneRequest : Obligations.StepKeepsParamsAndTakesOneRequest := by
  unfold Obligations.StepKeepsParamsAndTakesOneRequest
  intro s t h
  obtain ⟨hreq, rfl⟩ | ⟨r, rest, a, hreq, -, hperform⟩ := step_cases h
  · simp [hreq]
  · rw [hreq]
    exact perform_params_requests hperform

/-- What keeps the regions and leaves the block live with settled fields keeps the invariant. -/
theorem State.Inv.of_live {s t : State} (hinv : s.Inv) (hl : t.live = true) (hv : t.video.Settled)
    (hregion : ∀ r, t.region r = s.region r) (hparams : t.params = s.params) : t.Inv where
  settled _ := hv
  dormant h := by simp [hl] at h
  canonical r := hregion r ▸ hinv.canonical r
  inside r := by rw [hregion, hparams]; exact hinv.inside r

/-- Empty regions are canonical, so a block without region bytes has only its live flag to answer for. -/
theorem State.Inv.of_regions_nil {t : State} (hregion : ∀ r, t.region r = [])
    (hv : t.live = true → t.video.Settled) (hr : t.live = false → t.renderer = Config.dummy) : t.Inv where
  settled := hv
  dormant h := ⟨hr h, hregion .vram, hregion .palette, hregion .oam⟩
  canonical r := by simp [hregion, Memory.wf]
  inside r := by simp [hregion]

/-- A transaction that a command word can name keeps the invariant (10_state.md R35, 43_lifecycle.md). -/
theorem exec_keeps_inv {i : Instr} {s t : State} (hinv : s.Inv) (hwf : i.WellFormed)
    (h : exec i s = .next t) : t.Inv := by
  cases i with
  | advance c =>
    obtain ⟨hl, rfl⟩ := exec_advance_eq_next.mp h
    refine hinv.of_live (by simpa using hl) ?_ (fun r => ?_) (by simp)
    · simpa using (hinv.settled hl).advance (of_decide_eq_true hwf)
    · exact State.region_congr (by simp) (by simp) (by simp) r
  | writeStatus v =>
    obtain ⟨hl, rfl⟩ := exec_writeStatus_eq_next.mp h
    exact hinv.of_live hl ((hinv.settled hl).writeStatus v) (State.region_congr rfl rfl rfl) rfl
  | readStatus =>
    obtain ⟨hl, rfl⟩ := exec_readStatus_eq_next.mp h
    exact hinv.of_live hl (hinv.settled hl) (State.region_congr rfl rfl rfl) rfl
  | writeVideoReg a v =>
    obtain ⟨hl, -, rfl⟩ := exec_writeVideoReg_eq_next.mp h
    exact hinv.of_live (by simpa using hl) (by simpa using hinv.settled hl)
      (State.region_congr (by simp) (by simp) (by simp)) (by simp)
  | attachRenderer r =>
    obtain ⟨hl, rfl⟩ := exec_attachRenderer_eq_next.mp h
    exact hinv.of_live hl (hinv.settled hl) (State.region_congr rfl rfl rfl) rfl
  | powerOn =>
    obtain ⟨-, rfl⟩ := exec_powerOn_eq_next.mp h
    exact .of_regions_nil (powerUp_region _) (fun _ => Video.reset_settled) (by simp)
  | teardown =>
    obtain ⟨-, rfl⟩ := exec_teardown_eq_next.mp h
    exact .of_regions_nil (tearDown_region _) (by simp) (fun _ => rfl)

/-- A write of a valid offset keeps the invariant (20_memory.md R50, R51). -/
theorem hostWrite_keeps_inv {r : Region} {off : Nat} {b : Byte} {s t : State} (hinv : s.Inv)
    (h : hostWrite r off b s = .next t) : t.Inv := by
  obtain ⟨hl, hoff, rfl⟩ := hostWrite_eq_next.mp h
  refine ⟨fun _ => by simpa using hinv.settled hl, fun hn => by simp [hl] at hn, fun q => ?_, fun q => ?_⟩
  · by_cases hq : q = r
    · rw [hq, State.setRegion_region]
      exact Memory.wf_write (hinv.canonical r) off b
    · rw [State.setRegion_region_ne _ _ hq]
      exact hinv.canonical q
  · by_cases hq : q = r
    · rw [hq, State.setRegion_region, State.setRegion_params]
      intro c hc
      obtain ⟨rfl, -⟩ | hc := Memory.mem_write hc
      · exact hoff
      · exact hinv.inside r c hc
    · rw [State.setRegion_region_ne _ _ hq, State.setRegion_params]
      exact hinv.inside q

/-- A request resolves to transactions that a command word can name. -/
theorem wellFormed_of_resolve {p : Params} {r : HostRequest} {i : Instr}
    (h : resolve p r = .ok (.transaction i)) : i.WellFormed := by
  obtain ⟨w, -, hdec⟩ | ⟨v, rfl⟩ | ⟨a, v, rfl⟩ | rfl := resolve_transaction h
  · exact (encode_eq_of_decode hdec).1
  all_goals rfl

theorem State.Inv.with_requests {s : State} (hinv : s.Inv) (rest : List HostRequest) :
    State.Inv { s with requests := rest } where
  settled := hinv.settled
  dormant := hinv.dormant
  canonical r := by rw [region_with_requests]; exact hinv.canonical r
  inside r := by rw [region_with_requests]; exact hinv.inside r

/-- Settles O18: an idle step changes nothing, a byte write keeps the regions canonical, a byte read
keeps everything, and a transaction that a request can name keeps settled fields settled. -/
theorem stepKeepsInvariant : Obligations.StepKeepsInvariant := by
  unfold Obligations.StepKeepsInvariant
  intro s t hinv h
  obtain ⟨-, rfl⟩ | ⟨r, rest, a, -, hres, hperform⟩ := step_cases h
  · exact hinv
  have hinv' := hinv.with_requests rest
  cases a with
  | transaction i => exact exec_keeps_inv hinv' (wellFormed_of_resolve hres) hperform
  | memRead r off =>
    obtain ⟨hl, -, rfl⟩ := hostRead_eq_next.mp hperform
    exact hinv'.of_live hl (hinv'.settled hl) (State.region_congr rfl rfl rfl) rfl
  | memWrite r off b => exact hostWrite_keeps_inv hinv' hperform

/-- Settles O19: the reset values are settled and every region is empty. -/
theorem resetMeetsInvariant : Obligations.ResetMeetsInvariant := by
  unfold Obligations.ResetMeetsInvariant
  exact .of_regions_nil (fun r => by cases r <;> rfl) (fun _ => Video.reset_settled) (fun _ => rfl)

end Sys2Proof.Machine
end

section
/-! SUPPORT. One ADVANCE: the event it performs as a function of the state before it, the fields and the
outputs of that event, and which transaction emits which event (40_timing.md, 60_exceptions.md). -/

namespace Sys2Proof.Machine

/-! ### The event does not see the cycles (40_timing.md R90, R101) -/

/-- The video fields after an event, its distance recorded (40_timing.md R91, R99). -/
def eventDone (v : Video) : Video :=
  { eventVideo v with lastEventDiff := (eventVideo v).cyclesToNextEvent }

/-- Both transitions write E before they read it. -/
theorem eventVideo_spendVideo (c : Word) (v : Video) : eventVideo (spendVideo c v) = eventVideo v := rfl

theorem eventOutputs_spendVideo (active : Bool) (h : RendererHandle) (c : Word) (v : Video) :
    eventOutputs active h (spendVideo c v) = eventOutputs active h v := rfl

theorem eventAsks_spendVideo (c : Word) (v : Video) : eventAsks (spendVideo c v) = eventAsks v := rfl

theorem advanceVideo_eq_eventDone {c : Word} {s : State} (hd : EventDue c s) :
    advanceVideo c s.video = eventDone s.video := advanceVideo_of_due hd

/-- An ADVANCE with an event due is the event of the state before it. -/
theorem advanceState_eq_moved {c : Word} {s : State} (hd : EventDue c s) :
    advanceState c s.begin = s.begin.moved (eventDone s.video)
      (eventOutputs s.pacingAnswer s.renderer s.video) (eventAsks s.video) := by
  rw [advanceState_of_due (stillPositive_of_due hd)]
  simp only [State.begin_video, State.begin_renderer, advanceVideo_eq_eventDone hd,
    eventOutputs_spendVideo, eventAsks_spendVideo]
  rfl

/-! ### The fields after an event -/

/-- Start-of-Hblank on any fields (40_timing.md R91, R92). -/
theorem eventDone_of_hdraw {v : Video} (hb : v.inHblank = false) :
    eventDone v =
      let base := v.cyclesToNextHblankStart - v.lastEventDiff
      { v with
        inHblank                   := true
        cyclesSinceLastHblankStart := base
        cyclesToNextEvent          := base + 226#32
        cyclesToNextHblankStart    := base + 226#32 + 1006#32
        cyclesToNextHblankIRQ      := base + 226#32 + 1006#32
        cyclesToNextVblankIRQ      := v.cyclesToNextVblankIRQ - v.lastEventDiff
        cyclesToNextVcounterIRQ    := v.cyclesToNextVcounterIRQ - v.lastEventDiff
        lastEventDiff              := base + 226#32 } := by
  simp only [eventDone, eventVideo, hb, Bool.false_eq_true, if_false]
  rfl

/-- End-of-Hblank on any fields, `line` the line it leads to (40_timing.md R95 to R97). -/
theorem endVideo_eq {v : Video} {line : Word}
    (hline : (if v.scanline + 1#32 = 228#32 then 0#32 else v.scanline + 1#32) = line) :
    endVideo v =
      { v with
        scanline                := line
        inHblank                := false
        inVblank                :=
          if line = 160#32 then true else if line = 227#32 then false else v.inVblank
        vcounterMatch           := matchesTarget line v.vcountTarget
        cyclesToNextEvent       := v.cyclesToNextHblankStart
        cyclesToNextVblankIRQ   :=
          if line = 160#32 then 280896#32 else v.cyclesToNextVblankIRQ
        cyclesToNextVcounterIRQ :=
          if matchesTarget line v.vcountTarget && v.vcounterIRQEnabled then
            v.cyclesToNextVcounterIRQ + 280896#32
          else v.cyclesToNextVcounterIRQ } := by
  have hfirst : Config.visibleLines = 160#32 := rfl
  have hwrap : Config.totalLines = 228#32 := rfl
  have hframe : Config.frameLength = 280896#32 := by decide
  simp only [endVideo, matchVideo, lineVideo, endHblankVideo, hfirst, hwrap, hframe]
  by_cases h228 : v.scanline + 1#32 = 228#32
  · rw [if_pos h228] at hline
    simp [h228, ← hline]
  · rw [if_neg h228] at hline
    rw [hline] at h228 ⊢
    by_cases h160 : line = 160#32
    · simp [h160]
    · by_cases h227 : line = 227#32 <;> simp [h160, h227, h228]

/-- End-of-Hblank with the rebase before it, on any state (40_timing.md R91, R95 to R97, R99). -/
theorem eventDone_of_hblank {s : State} (hb : s.video.inHblank = true) :
    eventDone s.video =
      let line := nextLine s
      let base := s.video.cyclesToNextHblankStart - s.video.lastEventDiff
      let hit  := decide (line = s.video.vcountTarget.setWidth 32)
      let ci   := s.video.cyclesToNextVcounterIRQ - s.video.lastEventDiff
      { s.video with
        scanline                   := line
        inHblank                   := false
        inVblank                   :=
          if line = 160#32 then true else if line = 227#32 then false else s.video.inVblank
        vcounterMatch              := hit
        cyclesToNextEvent          := base
        cyclesSinceLastHblankStart :=
          s.video.cyclesSinceLastHblankStart - s.video.lastEventDiff
        cyclesToNextHblankStart    := base
        cyclesToNextHblankIRQ      := s.video.cyclesToNextHblankIRQ - s.video.lastEventDiff
        cyclesToNextVblankIRQ      :=
          if line = 160#32 then 280896#32
          else s.video.cyclesToNextVblankIRQ - s.video.lastEventDiff
        cyclesToNextVcounterIRQ    :=
          if hit && s.video.vcounterIRQEnabled then ci + 280896#32 else ci
        lastEventDiff              := base } := by
  simp only [eventDone, eventVideo, hb, if_true]
  rw [endVideo_eq (v := rebase s.video) (line := nextLine s) rfl]
  rfl

/-! ### ADVANCE on a live block -/

/-- Settles O22: no event is due, so only E is lowered. -/
theorem advanceShortOfTheEventLowersE : Obligations.AdvanceShortOfTheEventLowersE := by
  unfold Obligations.AdvanceShortOfTheEventLowersE
  intro s c hl hpos
  have hnd : ¬ EventDue c s := by unfold EventDue; omega
  rw [exec_advance_eq_next, advanceState_of_positive (stillPositive_of_not_due hnd)]
  exact ⟨hl, rfl⟩

/-- Settles O23: the event of Hdraw asks no pacing answer, so nothing else changes. -/
theorem advanceStartsHblank : Obligations.AdvanceStartsHblank := by
  unfold Obligations.AdvanceStartsHblank
  intro s c hl hb hd
  have hasks : eventAsks s.video = false := by simp [eventAsks, hb]
  have houts : eventOutputs s.pacingAnswer s.renderer s.video =
      (if s.video.scanline.toInt < 160 then [.dmaHblank] else []) ++
        (if s.video.hblankIRQEnabled then [.irq .hblank] else []) := by
    simp [eventOutputs, hb, startOutputs, visible_eq]
  rw [exec_advance_eq_next, advanceState_eq_moved hd, eventDone_of_hdraw hb, hasks, houts]
  exact ⟨hl, rfl⟩

/-- Settles O24: the outputs of an event of Hdraw, the line being one of -1 to 227. -/
theorem startOfHblankOutputs : Obligations.StartOfHblankOutputs := by
  unfold Obligations.StartOfHblankOutputs
  intro s c hinv hl hb hd
  obtain ⟨hlower, hupper⟩ := (hinv.settled hl).lineRange
  refine ⟨_, exec_advance_eq_next.mpr ⟨hl, rfl⟩, hlower, hupper, fun hv => ?_, fun hv => ?_⟩
  · rw [State.answer_outputs, advanceState_outputs_due hd, if_pos hb, if_pos (by omega)]
    cases s.video.hblankIRQEnabled <;> rfl
  · rw [State.answer_outputs, advanceState_outputs_due hd, if_pos hb, if_neg (by omega)]
    rfl

/-- Settles O25: the event of Hblank, and what no ADVANCE touches. -/
theorem advanceEndsHblank : Obligations.AdvanceEndsHblank := by
  unfold Obligations.AdvanceEndsHblank
  intro s c hl hb hd
  have hvideo : (advanceState c s.begin).video = eventDone s.video := by
    rw [advanceState_video, State.begin_video, advanceVideo_eq_eventDone hd]
  refine ⟨_, exec_advance_eq_next.mpr ⟨hl, rfl⟩, ?_, ?_, ?_⟩
  · rw [State.answer_video, hvideo, eventDone_of_hblank hb]
  · rw [State.answer_result, hvideo, eventDone_of_hblank hb]
  · refine ⟨by simp, by simpa using hl, by simp, by simp, by simp, by simp, fun r off => ?_⟩
    exact congrArg (Memory.read · off) (State.region_congr (by simp) (by simp) (by simp) r)

/-! ### The pacing answer an event uses up (10_state.md R41) -/

theorem State.moved_pacingAnswers (s : State) (v : Video) (evs : List OutputEvent) (asked : Bool) :
    (s.moved v evs asked).pacingAnswers = if asked then s.pacingAnswers.tail else s.pacingAnswers := by
  cases asked
  · rfl
  · simp only [State.moved, State.takePacingAnswer, if_true]
    cases s.pacingAnswers <;> rfl

theorem State.moved_pacingDraws (s : State) (v : Video) (evs : List OutputEvent) (asked : Bool) :
    (s.moved v evs asked).pacingDraws =
      if asked = true ∧ s.pacingAnswers = [] then s.pacingDraws + 1 else s.pacingDraws := by
  cases asked
  · rfl
  · simp only [State.moved, State.takePacingAnswer, if_true]
    cases s.pacingAnswers <;> rfl

/-- An event asks when it enters line 160 or a visible line (40_timing.md R96, R98). -/
theorem eventAsks_iff (s : State) :
    eventAsks s.video = true ↔
      s.video.inHblank = true ∧ (nextLine s = 160#32 ∨ (nextLine s).toInt < 160) := by
  have hline : (endVideo (rebase s.video)).scanline = nextLine s := endVideo_scanline _
  simp [eventAsks, asksPacing, hline, visible_eq, Config.visibleLines]

/-- The query stands in the output list exactly when the event asks. -/
theorem paceQuery_mem_iff {c : Word} {s : State} (hd : EventDue c s) :
    .paceQuery ∈ (advanceState c s.begin).outputs ↔ eventAsks s.video = true := by
  rw [mem_advanceState_outputs_due hd, eventAsks_iff]
  simp [mem_vblankOutputs]

/-- Settles O26: the parts of an End-of-Hblank's list by the line entered, and the answer used up when
the query is in it. -/
theorem eventOutputsFollowTheOrder : Obligations.EventOutputsFollowTheOrder := by
  unfold Obligations.EventOutputsFollowTheOrder
  intro s c hl hd
  refine ⟨_, exec_advance_eq_next.mpr ⟨hl, rfl⟩, ?_, ?_, ?_⟩
  · rw [State.answer_outputs, advanceState_outputs_due hd]
    by_cases hb : s.video.inHblank = false
    · rw [if_pos hb, if_pos hb]
    · rw [if_neg hb, if_neg hb]
      by_cases h160 : nextLine s = 160#32
      · have hvis : ¬ (nextLine s).toInt < 160 := by rw [h160]; decide
        rw [if_pos h160, if_pos h160, if_neg hvis]
        simp [vblankOutputs, and_comm]
      · rw [if_neg h160, if_neg h160]
        by_cases hvis : (nextLine s).toInt < 160 <;> simp [hvis, and_comm]
  · rw [State.answer_outputs, State.answer_pacingAnswers]
    simp only [paceQuery_mem_iff hd]
    rw [advanceState_eq_moved hd, State.moved_pacingAnswers]
    rfl
  · rw [State.answer_outputs, State.answer_pacingDraws]
    simp only [paceQuery_mem_iff hd]
    rw [advanceState_eq_moved hd, State.moved_pacingDraws]
    rfl

/-! ### Budget and distance (10_state.md R35, 40_timing.md R99, R101) -/

/-- Settles O29: the event does not see the cycles, and it flips the phase. -/
theorem overshootIsLost : Obligations.OvershootIsLost := by
  unfold Obligations.OvershootIsLost
  intro s c d hl hc hd
  refine ⟨?_, _, exec_advance_eq_next.mpr ⟨hl, rfl⟩, ?_⟩
  · rw [exec_advance_eq_next.mpr ⟨hl, rfl⟩, eq_comm, exec_advance_eq_next, advanceState_eq_moved hc,
      advanceState_eq_moved hd]
    exact ⟨hl, rfl⟩
  · rw [State.answer_video, advanceState_video]
    exact advanceVideo_inHblank hc

/-- Settles O30: ADVANCE keeps settled fields settled, and their budget is in range. -/
theorem budgetStaysInRange : Obligations.BudgetStaysInRange := by
  unfold Obligations.BudgetStaysInRange
  intro s c hinv hl hc
  refine ⟨_, exec_advance_eq_next.mpr ⟨hl, rfl⟩, rfl, ?_⟩
  rw [State.answer_video, advanceState_video]
  exact ((hinv.settled hl).advance hc).budgetRange

/-- The distance an event from a settled state sets and records. -/
theorem Video.Settled.event_distance {s : State} (hs : s.video.Settled) {c : Word} (hd : EventDue c s) :
    (advanceVideo c s.video).lastEventDiff = (advanceVideo c s.video).cyclesToNextEvent ∧
      (advanceVideo c s.video).cyclesToNextEvent = if s.video.inHblank then 1006#32 else 226#32 := by
  cases hb : s.video.inHblank
  · rw [hs.start hb hd]; exact ⟨rfl, rfl⟩
  · rw [hs.finish hb hd]; exact ⟨rfl, rfl⟩

/-- Settles O28: the distance is set by the first event, and the second one's rebase subtracts it. -/
theorem eventDistanceIsRecorded : Obligations.EventDistanceIsRecorded := by
  unfold Obligations.EventDistanceIsRecorded
  intro s c hinv hl hd
  obtain ⟨hdiff, hset⟩ := (hinv.settled hl).event_distance hd
  obtain ⟨t, ht, hvideo⟩ := exec_advance_of_live hl c
  refine ⟨t, ht, by rw [hvideo, hdiff], by rw [hvideo, hset], ?_, fun d u hdue hu => ?_⟩
  · obtain ⟨-, rfl⟩ := exec_advance_eq_next.mp ht
    rfl
  · rw [exec_advance_video hu, advanceVideo_eq_eventDone hdue]
    cases hb : t.video.inHblank
    · rw [if_neg (by decide), eventDone_of_hdraw hb]
      exact ⟨rfl, rfl⟩
    · rw [if_pos rfl, eventDone_of_hblank hb]
      exact ⟨rfl, rfl, rfl⟩

/-! ### Which transaction emits which event (60_exceptions.md R182 to R185) -/

/-- Events of the timing state machine, that is, all but those of the renderer's association and its
register writes. -/
def OutputEvent.isTiming : OutputEvent → Bool
  | .rInit _ | .rDeinit _ | .rBind _ | .rWriteReg _ _ _ => false
  | .irq _ | .dmaVblank | .dmaHblank | .paceQuery | .paceFramePosted
  | .rDrawScanline _ _ | .rFinishFrame _ => true

/-- A timing event is emitted by an ADVANCE that performs an event, and by nothing else. -/
theorem timing_mem_outputs_iff {i : Instr} {s t : State} (h : exec i s = .next t) {ev : OutputEvent}
    (hev : ev.isTiming = true) :
    ev ∈ t.outputs ↔
      ∃ c, i = .advance c ∧ EventDue c s ∧ ev ∈ (advanceState c s.begin).outputs := by
  obtain ⟨c, rfl, -, hd, hout⟩ | ⟨hn, hout⟩ := exec_outputs_cases h
  · rw [hout]
    refine ⟨fun hmem => ⟨c, rfl, hd, hmem⟩, ?_⟩
    rintro ⟨_, hi, -, hmem⟩
    cases hi
    exact hmem
  · constructor
    · intro hmem
      obtain ⟨_, _, _, rfl⟩ | ⟨_, rfl | rfl | rfl⟩ := hout ev hmem <;> cases hev
    · rintro ⟨c, rfl, hd, -⟩
      exact absurd ⟨c, rfl, hd⟩ hn

/-- Settles O34, by the condition of each interrupt. -/
theorem interruptSources : Obligations.InterruptSources := by
  unfold Obligations.InterruptSources
  exact fun i s t h => ⟨irq_mem_outputs_iff h .vblank, irq_mem_outputs_iff h .hblank,
    irq_mem_outputs_iff h .vcounter⟩

/-- Settles O35: both triggers are timing events; that the line is at least -1 is the invariant's. -/
theorem dmaTriggerSources : Obligations.DmaTriggerSources := by
  unfold Obligations.DmaTriggerSources
  intro i s t hinv h
  rw [timing_mem_outputs_iff h rfl, timing_mem_outputs_iff h rfl]
  refine ⟨exists_congr fun c => and_congr_right ?_, exists_congr fun c => and_congr_right ?_⟩
  · rintro rfl
    refine and_congr_right fun hd => ?_
    rw [mem_advanceState_outputs_due hd]
    simp [mem_vblankOutputs]
  · rintro rfl
    obtain ⟨hl, -⟩ := exec_advance_eq_next.mp h
    obtain ⟨hlower, -⟩ := (hinv.settled hl).lineRange
    refine and_congr_right fun hd => ?_
    rw [mem_advanceState_outputs_due hd]
    simp only [mem_vblankOutputs, reduceCtorEq, and_false, or_false, and_true]
    exact and_congr_right fun _ => by omega

/-- Settles O36: a draw or a finished frame is a timing event of the attached renderer. -/
theorem drawAndFinishSources : Obligations.DrawAndFinishSources := by
  unfold Obligations.DrawAndFinishSources
  intro i s t h y hexec
  rw [timing_mem_outputs_iff hexec rfl, timing_mem_outputs_iff hexec rfl]
  refine ⟨exists_congr fun c => and_congr_right fun _ => and_congr_right fun hd => ?_,
    exists_congr fun c => and_congr_right fun _ => and_congr_right fun hd => ?_⟩
  · rw [mem_advanceState_outputs_due hd]
    simp only [mem_vblankOutputs, reduceCtorEq, and_false, or_false, false_or,
      OutputEvent.rDrawScanline.injEq]
    constructor
    · rintro ⟨hb, hvis, hactive, rfl, rfl⟩
      exact ⟨hb, rfl, rfl, hvis, hactive⟩
    · rintro ⟨hb, rfl, rfl, hvis, hactive⟩
      exact ⟨hb, hvis, hactive, rfl, rfl⟩
  · rw [mem_advanceState_outputs_due hd]
    simp only [mem_vblankOutputs, reduceCtorEq, and_false, or_false, false_or,
      OutputEvent.rFinishFrame.injEq]
    constructor
    · rintro ⟨hb, hline, hactive, rfl⟩
      exact ⟨hb, rfl, hline, hactive⟩
    · rintro ⟨hb, rfl, hline, hactive⟩
      exact ⟨hb, hline, hactive, rfl⟩

/-- The line an End-of-Hblank of a settled state leads to is one of 0 to 227 (40_timing.md R95, R96). -/
theorem Video.Settled.nextLine_range {s : State} (hs : s.video.Settled) :
    0 ≤ (nextLine s).toInt ∧ (nextLine s).toInt ≤ 227 := by
  obtain ⟨hlower, hupper⟩ := hs.lineRange
  have hn : (nextLine s).toInt = _ := nextLine_toInt hlower hupper
  split at hn <;> omega

/-- The target, zero-extended, as a number. -/
theorem target_toInt (target : BitVec 8) : (target.setWidth 32 : Word).toInt = target.toNat := by
  rw [Word.toInt_of_lt (by rw [BitVec.toNat_setWidth]; omega), BitVec.toNat_setWidth]
  omega

/-- Settles O37: the line entered is below 228, so such a target differs from it. -/
theorem highTargetsNeverMatch : Obligations.HighTargetsNeverMatch := by
  unfold Obligations.HighTargetsNeverMatch
  intro s c hinv hl hb hd htarget
  obtain ⟨-, hupper⟩ := (hinv.settled hl).nextLine_range
  have hne : nextLine s ≠ s.video.vcountTarget.setWidth 32 := fun heq => by
    have := congrArg BitVec.toInt heq
    rw [target_toInt] at this
    omega
  obtain ⟨t, ht, hvideo⟩ := exec_advance_of_live hl c
  refine ⟨t, ht, ?_, ?_⟩
  · rw [hvideo, advanceVideo_eq_eventDone hd, eventDone_of_hblank hb]
    exact decide_eq_false hne
  · rw [irq_mem_outputs_iff ht]
    rintro ⟨_, -, -, -, heq, -⟩
    exact hne heq

end Sys2Proof.Machine
end

section
/-! SUPPORT. The status write in numbers, the renderer's protocol and the lifecycle (41_status.md,
42_renderer.md, 43_lifecycle.md). -/

namespace Sys2Proof.Machine

/-! ### The status write (41_status.md R130, R131) -/

theorem statusTarget_eq (v : Half) : statusTarget v = BitVec.ofNat 8 (v.toNat / 256) := by
  rw [← BitVec.toNat_inj, statusTarget, BitVec.extractLsb'_toNat, BitVec.toNat_ofNat,
    Nat.shiftRight_eq_div_pow]

/-- CI as RECOMPUTE_VCOUNTER makes it for a target, from the fields before (41_status.md R131). -/
def recomputedCI (target : BitVec 8) (w : Video) : Word :=
  let ci := w.cyclesToNextHblankStart + 226#32 + (target.setWidth 32 - w.scanline) * 1232#32
  if ci.toInt < w.cyclesToNextEvent.toInt then ci + 280896#32 else ci

/-- Every field after a status write. -/
theorem writeStatusVideo_fields (v : Half) (w : Video) :
    writeStatusVideo v w =
      { w with
        vblankIRQEnabled := v.getLsbD 3, hblankIRQEnabled := v.getLsbD 4
        vcounterIRQEnabled := v.getLsbD 5, vcountTarget := statusTarget v
        cyclesToNextVcounterIRQ :=
          if v.getLsbD 5 then recomputedCI (statusTarget v) w else w.cyclesToNextVcounterIRQ } := by
  have hline : Config.horizontalLength = 1232#32 := by decide
  have hframe : Config.frameLength = 280896#32 := by decide
  have hgate : (scatterStatus v w).vcounterIRQEnabled = v.getLsbD 5 := rfl
  unfold writeStatusVideo
  cases h : v.getLsbD 5
  · simp only [hgate, h, Bool.false_eq_true, if_false]
    rw [← h]
    rfl
  · simp only [hgate, h, if_true, recomputeVcounter, recomputedCI, hline, hframe, BitVec.slt,
      decide_eq_true_eq]
    rw [← h]
    rfl

/-- Settles O47: the scatter, and the recomputation under bit 5. -/
theorem writeStatusEffect : Obligations.WriteStatusEffect := by
  unfold Obligations.WriteStatusEffect
  intro s v hl
  rw [exec_writeStatus_eq_next, writeStatusVideo_fields, statusTarget_eq]
  exact ⟨hl, rfl⟩

/-- Settles O51: the fields of the write determine it. -/
theorem ignoredStatusBitsTakeNoPart : Obligations.IgnoredStatusBitsTakeNoPart := by
  unfold Obligations.IgnoredStatusBitsTakeNoPart
  intro s v w h3 h4 h5 htarget
  have hvideo : ∀ x, writeStatusVideo v x = writeStatusVideo w x := fun x => by
    rw [writeStatusVideo_fields, writeStatusVideo_fields, statusTarget_eq, statusTarget_eq, h3, h4, h5,
      htarget]
  simp only [exec, execWriteStatus, hvideo]

/-- The number a status write's target is. -/
theorem statusTarget_toInt (v : Half) :
    ((statusTarget v).setWidth 32 : Word).toInt = ((v.toNat / 256 : Nat) : Int) := by
  have hv := v.isLt
  rw [target_toInt, statusTarget_eq, BitVec.toNat_ofNat]
  omega

/-- CI before the frame is added does not wrap: the target and the line are a few hundred at most. -/
theorem recomputedCI_toInt {target : BitVec 8} {w : Video}
    (hline : -1 ≤ w.scanline.toInt ∧ w.scanline.toInt ≤ 227)
    (hstart : w.cyclesToNextHblankStart.toInt = 1006 ∨ w.cyclesToNextHblankStart.toInt = 1232) :
    (recomputedCI target w).toInt =
      let ci := w.cyclesToNextHblankStart.toInt + 226 + (target.toNat - w.scanline.toInt) * 1232
      if ci < w.cyclesToNextEvent.toInt then ci + 280896 else ci := by
  have htarget := target.isLt
  have hz := target_toInt target
  have hdiff : (target.setWidth 32 - w.scanline : Word).toInt = target.toNat - w.scanline.toInt := by
    rw [Word.toInt_sub (by omega) (by omega), hz]
  have hprod : ((target.setWidth 32 - w.scanline) * 1232#32 : Word).toInt =
      (target.toNat - w.scanline.toInt) * 1232 := by
    have h1232 : (1232#32 : Word).toInt = 1232 := rfl
    rw [Word.toInt_mul (by rw [h1232]; omega) (by rw [h1232]; omega), hdiff, h1232]
  have hbase : (w.cyclesToNextHblankStart + 226#32 : Word).toInt =
      w.cyclesToNextHblankStart.toInt + 226 := by
    have h226 : (226#32 : Word).toInt = 226 := rfl
    rw [Word.toInt_add (by omega) (by omega), h226]
  have hci : (w.cyclesToNextHblankStart + 226#32 + (target.setWidth 32 - w.scanline) * 1232#32).toInt =
      w.cyclesToNextHblankStart.toInt + 226 + (target.toNat - w.scanline.toInt) * 1232 := by
    rw [Word.toInt_add (by omega) (by omega), hbase, hprod]
  have hframe : (280896#32 : Word).toInt = 280896 := rfl
  simp only [recomputedCI, hci]
  split
  · rw [Word.toInt_add (by omega) (by omega), hci, hframe]
  · exact hci

/-- H at a settled state (10_state.md R36). -/
theorem Video.Settled.nextHblankStart {v : Video} (hs : v.Settled) :
    v.cyclesToNextHblankStart = if v.inHblank then 1232#32 else 1006#32 := by
  have ht := hs.countdownTable
  unfold Video.CountdownTable at ht
  split at ht
  · next hb => rw [if_pos hb]; exact ht.2.1
  · next hb => rw [if_neg hb]; split at ht <;> exact ht.2.1

/-- The closed forms of CI after a write that sets the vcounter enable: in Hdraw the budget lies between
0 and the next line's value, in Hblank between those of the two lines before. -/
theorem Video.Settled.writeStatus_ci_toInt {w : Video} (hs : w.Settled) {v : Half}
    (h5 : v.getLsbD 5 = true) :
    (writeStatusVideo v w).cyclesToNextVcounterIRQ.toInt =
      let target : Int := ((v.toNat / 256 : Nat) : Int)
      let line := w.scanline.toInt
      if w.inHblank then
        (target - line) * 1232 + 1458 + (if target ≤ line - 2 then 280896 else 0)
      else (target - line + 1) * 1232 + (if target < line then 280896 else 0) := by
  have htarget : ((statusTarget v).toNat : Int) = ((v.toNat / 256 : Nat) : Int) := by
    rw [← target_toInt, statusTarget_toInt]
  obtain ⟨hbudget, hmax⟩ := hs.budgetRange
  have hstart := hs.nextHblankStart
  simp only [writeStatusVideo_fields, h5, if_true]
  cases hb : w.inHblank
  · simp only [hb, Bool.false_eq_true, if_false] at hstart hmax ⊢
    have hstart : w.cyclesToNextHblankStart.toInt = 1006 := by rw [hstart]; rfl
    rw [recomputedCI_toInt hs.lineRange (.inl hstart), htarget, hstart]
    dsimp only
    split <;> split <;> omega
  · simp only [hb, if_true] at hstart hmax ⊢
    have hstart : w.cyclesToNextHblankStart.toInt = 1232 := by rw [hstart]; rfl
    rw [recomputedCI_toInt hs.lineRange (.inr hstart), htarget, hstart]
    dsimp only
    split <;> split <;> omega

/-- Settles O48, by the closed forms on the video fields. -/
theorem recomputedVcounterClosedForms : Obligations.RecomputedVcounterClosedForms := by
  unfold Obligations.RecomputedVcounterClosedForms
  exact fun s v hinv hl h5 =>
    ⟨_, exec_writeStatus_eq_next.mpr ⟨hl, rfl⟩, (hinv.settled hl).writeStatus_ci_toInt h5⟩

/-- Settles O49: neither closed form adds a frame for a target not before the line. -/
theorem hblankStatusWriteIsOneLineLater : Obligations.HblankStatusWriteIsOneLineLater := by
  unfold Obligations.HblankStatusWriteIsOneLineLater
  intro s t v hsinv htinv hsl htl hsb htb hline h5 htarget
  refine ⟨_, _, exec_writeStatus_eq_next.mpr ⟨hsl, rfl⟩, exec_writeStatus_eq_next.mpr ⟨htl, rfl⟩, ?_⟩
  have hs := (hsinv.settled hsl).writeStatus_ci_toInt h5
  have ht := (htinv.settled htl).writeStatus_ci_toInt h5
  simp only [hsb, htb, hline, Bool.false_eq_true, if_false, if_true] at hs ht
  rw [if_neg (by omega)] at hs ht
  change 1006 + (writeStatusVideo v t.video).cyclesToNextVcounterIRQ.toInt =
    (writeStatusVideo v s.video).cyclesToNextVcounterIRQ.toInt + 1232
  omega

/-! ### The renderer (42_renderer.md R150 to R153) -/

/-- WRITE_VIDEO_REG in one update: the event, the answer, and the renderer answer used up. -/
theorem passThrough_eq (a : Addr) (v : Half) (s : State) :
    passThrough a v s =
      { s with
        outputs         := s.outputs ++ [.rWriteReg s.renderer a v]
        result          := .storedValue (s.registerAnswer s.renderer v)
        rendererAnswers :=
          if s.renderer = Config.dummy then s.rendererAnswers else s.rendererAnswers.tail
        rendererDraws   :=
          if s.renderer = Config.dummy ∨ s.rendererAnswers ≠ [] then s.rendererDraws
          else s.rendererDraws + 1 } := by
  by_cases hr : s.renderer = Config.dummy
  · simp [passThrough, State.takeRegisterAnswer, State.emit, State.answer, hr]
  · cases hanswers : s.rendererAnswers <;>
      simp [passThrough, State.takeRegisterAnswer, State.emit, State.answer, hr, hanswers]

/-- Settles O53: the dummy's answer is its input, and no draw. -/
theorem dummyRendererAnswersTheValue : Obligations.DummyRendererAnswersTheValue := by
  unfold Obligations.DummyRendererAnswersTheValue
  intro s a v hl ha hr
  rw [exec_writeVideoReg_eq_next, passThrough_eq]
  exact ⟨hl, ha, by simp [State.registerAnswer, hr, Config.dummy, State.begin]⟩

/-- Settles O54: a real renderer's answer by the inputs left. -/
theorem realRendererAnswersByInput : Obligations.RealRendererAnswersByInput := by
  unfold Obligations.RealRendererAnswersByInput
  intro s a v hl ha hr
  have hreal : s.renderer ≠ Config.dummy := hr
  rw [exec_writeVideoReg_eq_next, passThrough_eq]
  refine ⟨hl, ha, ?_⟩
  cases hanswers : s.rendererAnswers <;> simp [State.registerAnswer, hreal, hanswers, State.begin]

/-- Settles O55: the association protocol on the state with its outputs emptied. -/
theorem attachRunsTheProtocol : Obligations.AttachRunsTheProtocol := by
  unfold Obligations.AttachRunsTheProtocol
  exact fun s h hl => exec_attachRenderer_eq_next.mpr ⟨hl, rfl⟩

/-- The renderer attached after a transaction. -/
theorem exec_renderer {i : Instr} {s t : State} (h : exec i s = .next t) :
    t.renderer =
      match i with
      | .attachRenderer k => k
      | .powerOn | .teardown => Config.dummy
      | .advance _ | .writeStatus _ | .readStatus | .writeVideoReg _ _ => s.renderer := by
  cases i with
  | advance c => obtain ⟨-, rfl⟩ := exec_advance_eq_next.mp h; simp
  | writeStatus v => obtain ⟨-, rfl⟩ := exec_writeStatus_eq_next.mp h; rfl
  | readStatus => obtain ⟨-, rfl⟩ := exec_readStatus_eq_next.mp h; rfl
  | writeVideoReg a v => obtain ⟨-, -, rfl⟩ := exec_writeVideoReg_eq_next.mp h; simp
  | attachRenderer k => obtain ⟨-, rfl⟩ := exec_attachRenderer_eq_next.mp h; rfl
  | powerOn => obtain ⟨-, rfl⟩ := exec_powerOn_eq_next.mp h; rfl
  | teardown => obtain ⟨-, rfl⟩ := exec_teardown_eq_next.mp h; rfl

/-- The events of the association protocol in a transaction's outputs: those of ATTACH_RENDERER and
TEARDOWN only. -/
theorem exec_association_outputs {i : Instr} {s t : State} (h : exec i s = .next t) :
    match i with
    | .attachRenderer k => t.outputs = [.rDeinit s.renderer, .rBind k, .rInit k]
    | .teardown => t.outputs = [.rDeinit s.renderer, .rBind Config.dummy, .rInit Config.dummy]
    | .advance _ | .writeStatus _ | .readStatus | .writeVideoReg _ _ | .powerOn =>
      ∀ r, .rInit r ∉ t.outputs ∧ .rDeinit r ∉ t.outputs := by
  cases i with
  | advance c =>
    obtain ⟨-, rfl⟩ := exec_advance_eq_next.mp h
    rw [State.answer_outputs]
    by_cases hd : EventDue c s
    · simp [mem_advanceState_outputs_due hd, mem_vblankOutputs]
    · simp [advanceState_outputs_of_positive (stillPositive_of_not_due hd)]
  | writeStatus v => obtain ⟨-, rfl⟩ := exec_writeStatus_eq_next.mp h; simp
  | readStatus => obtain ⟨-, rfl⟩ := exec_readStatus_eq_next.mp h; simp
  | writeVideoReg a v => obtain ⟨-, -, rfl⟩ := exec_writeVideoReg_eq_next.mp h; simp
  | attachRenderer k => obtain ⟨-, rfl⟩ := exec_attachRenderer_eq_next.mp h; simp
  | powerOn => obtain ⟨-, rfl⟩ := exec_powerOn_eq_next.mp h; simp
  | teardown => obtain ⟨-, rfl⟩ := exec_teardown_eq_next.mp h; simp

/-- A transaction initialises a real renderer as often as it attaches it: once or never. -/
theorem exec_count_rInit {i : Instr} {s t : State} (h : exec i s = .next t) {r : RendererHandle}
    (hr : r ≠ Config.dummy) :
    t.outputs.count (.rInit r) = if i = .attachRenderer r then 1 else 0 := by
  have hout := exec_association_outputs h
  cases i with
  | attachRenderer k => simp [show t.outputs = _ from hout, List.count_singleton]
  | teardown => simp [show t.outputs = _ from hout, Ne.symm hr]
  | advance | writeStatus | readStatus | writeVideoReg | powerOn =>
    simpa using List.count_eq_zero.mpr (hout r).1

/-- A transaction deinitialises a renderer as often as it detaches it: once or never. -/
theorem exec_count_rDeinit {i : Instr} {s t : State} (h : exec i s = .next t) (r : RendererHandle) :
    t.outputs.count (.rDeinit r) =
      if s.renderer = r ∧ ((∃ k, i = .attachRenderer k) ∨ i = .teardown) then 1 else 0 := by
  have hout := exec_association_outputs h
  cases i with
  | attachRenderer k => simp [show t.outputs = _ from hout, List.count_cons]
  | teardown => simp [show t.outputs = _ from hout, List.count_cons]
  | advance | writeStatus | readStatus | writeVideoReg | powerOn =>
    simpa using List.count_eq_zero.mpr (hout r).2

/-- Settles O56: the two counts, and the renderer attached after each transaction. -/
theorem initAndDeinitAreMatched : Obligations.InitAndDeinitAreMatched := by
  unfold Obligations.InitAndDeinitAreMatched
  intro i s t h hinv hexec hr
  have hafter := exec_renderer hexec
  rw [exec_count_rInit hexec hr, exec_count_rDeinit hexec]
  refine ⟨by split <;> omega, by split <;> omega, by simp, ?_, ?_⟩
  · simp only [ite_eq_left_iff, Nat.zero_ne_one, imp_false, not_not]
  cases i with
  | attachRenderer k => simp [show t.renderer = k from hafter]
  | teardown => simp [show t.renderer = Config.dummy from hafter, show Config.dummy ≠ h from Ne.symm hr]
  | powerOn =>
    obtain ⟨hlive, -⟩ := exec_powerOn_eq_next.mp hexec
    obtain ⟨hbefore, -⟩ := hinv.dormant hlive
    simp [show t.renderer = Config.dummy from hafter, hbefore]
  | advance | writeStatus | readStatus | writeVideoReg =>
    simp [show t.renderer = s.renderer from hafter]

/-! ### The lifecycle (43_lifecycle.md R170, R172) -/

/-- Settles O57: every field of the reset table, over cleared regions. -/
theorem powerOnGivesTheResetState : Obligations.PowerOnGivesTheResetState := by
  unfold Obligations.PowerOnGivesTheResetState
  exact fun s hl => ⟨_, exec_powerOn_eq_next.mpr ⟨hl, rfl⟩, rfl, rfl, rfl,
    fun r off => regionByte_of_region_nil (powerUp_region _ r) off, rfl, rfl, rfl, rfl, rfl, rfl, rfl,
    rfl⟩

/-- Settles O58, by evaluation at the two fixed states. -/
theorem resetIsPowerOn : Obligations.ResetIsPowerOn := by
  unfold Obligations.ResetIsPowerOn
  exact ⟨rfl, rfl, rfl, fun r off => regionByte_of_region_nil (by cases r <;> rfl) off⟩

/-- Settles O59: the association with the dummy, then the release. -/
theorem teardownDetachesAndReleases : Obligations.TeardownDetachesAndReleases := by
  unfold Obligations.TeardownDetachesAndReleases
  exact fun s hl => exec_teardown_eq_next.mpr ⟨hl, rfl⟩

/-- Settles O60: POWER_ON reads nothing but the parameters, which TEARDOWN keeps. -/
theorem nothingSurvivesTeardown : Obligations.NothingSurvivesTeardown := by
  unfold Obligations.NothingSurvivesTeardown
  intro s u hs hu hparams
  exact ⟨_, _, _, exec_teardown_eq_next.mpr ⟨hs, rfl⟩, exec_powerOn_eq_next.mpr ⟨rfl, rfl⟩,
    exec_powerOn_eq_next.mpr ⟨hu, rfl⟩, ⟨rfl, rfl, rfl, rfl, rfl, rfl, hparams.symm⟩, rfl, rfl⟩

end Sys2Proof.Machine
end

section
/-! SUPPORT. What decides nothing: the inert countdowns, the pacing answers on timing, and the region
bytes under transactions (10_state.md R26, 40_timing.md, 20_memory.md R54). -/

namespace Sys2Proof.Machine

/-! ### Region bytes (20_memory.md R54, R62) -/

/-- Only POWER_ON and TEARDOWN replace a region's contents. -/
theorem exec_region {i : Instr} {s t : State} (h : exec i s = .next t) (hp : i ≠ .powerOn)
    (ht : i ≠ .teardown) (r : Region) : t.region r = s.region r := by
  cases i with
  | advance c =>
    obtain ⟨-, rfl⟩ := exec_advance_eq_next.mp h
    exact State.region_congr (by simp) (by simp) (by simp) r
  | writeStatus v =>
    obtain ⟨-, rfl⟩ := exec_writeStatus_eq_next.mp h
    exact State.region_congr rfl rfl rfl r
  | readStatus =>
    obtain ⟨-, rfl⟩ := exec_readStatus_eq_next.mp h
    exact State.region_congr rfl rfl rfl r
  | writeVideoReg a v =>
    obtain ⟨-, -, rfl⟩ := exec_writeVideoReg_eq_next.mp h
    exact State.region_congr (by simp) (by simp) (by simp) r
  | attachRenderer k =>
    obtain ⟨-, rfl⟩ := exec_attachRenderer_eq_next.mp h
    exact State.region_congr rfl rfl rfl r
  | powerOn => exact absurd rfl hp
  | teardown => exact absurd rfl ht

/-- What a renderer sees while it handles an event is the byte before the transaction (D34). -/
theorem eq_regionByte_of_rendererSees {s : State} {ev : OutputEvent} {r : Region} {off : Nat} {b : Byte}
    (h : rendererSees s ev r off = some b) : b = s.regionByte r off := by
  cases ev with
  | rDrawScanline | rFinishFrame =>
    simp only [rendererSees] at h
    split at h
    · exact (Option.some.inj h).symm
    · cases h
  | irq | dmaVblank | dmaHblank | paceQuery | paceFramePosted | rInit | rDeinit | rBind | rWriteReg =>
    cases h

/-- Settles O40: the regions stay, and a renderer sees the bytes before. -/
theorem transactionsKeepRegionBytes : Obligations.TransactionsKeepRegionBytes := by
  unfold Obligations.TransactionsKeepRegionBytes
  intro i s t h hp ht r off
  have hbyte : t.regionByte r off = s.regionByte r off :=
    congrArg (Memory.read · off) (exec_region h hp ht r)
  exact ⟨hbyte, fun ev _ b hb => (eq_regionByte_of_rendererSees hb).trans hbyte.symm⟩

/-! ### The inert countdowns L, HI, VI and CI (10_state.md R26) -/

/-- The fields with other values of the four countdowns that decide nothing. -/
def Video.withInert (v : Video) (l hi vi ci : Word) : Video :=
  { v with
    cyclesSinceLastHblankStart := l, cyclesToNextHblankIRQ := hi, cyclesToNextVblankIRQ := vi
    cyclesToNextVcounterIRQ := ci }

/-- The state with such fields. -/
def State.withInert (s : State) (l hi vi ci : Word) : State :=
  { s with video := s.video.withInert l hi vi ci }

theorem sameButInert_iff {s t : State} :
    SameButInertCountdowns s t ↔ ∃ l hi vi ci, t = s.withInert l hi vi ci := by
  constructor
  · exact fun h => ⟨_, _, _, _, h⟩
  · rintro ⟨l, hi, vi, ci, rfl⟩
    rfl

/-- An event of fields that differ only in these ends in fields that differ only in these. -/
theorem eventDone_withInert (s : State) (l hi vi ci : Word) :
    ∃ l' hi' vi' ci',
      eventDone (s.video.withInert l hi vi ci) = (eventDone s.video).withInert l' hi' vi' ci' := by
  cases hb : s.video.inHblank
  · have hb' : (s.video.withInert l hi vi ci).inHblank = false := hb
    rw [eventDone_of_hdraw hb, eventDone_of_hdraw hb']
    exact ⟨_, _, _, _, rfl⟩
  · have hb' : (s.withInert l hi vi ci).video.inHblank = true := hb
    have hdone' : eventDone (s.video.withInert l hi vi ci) = _ := eventDone_of_hblank hb'
    rw [eventDone_of_hblank hb, hdone']
    exact ⟨_, _, _, _, rfl⟩

/-- Neither does the output list of an event depend on them, nor whether it asks. -/
theorem event_parts_withInert (v : Video) (l hi vi ci : Word) (active : Bool) (h : RendererHandle) :
    eventOutputs active h (v.withInert l hi vi ci) = eventOutputs active h v ∧
      eventAsks (v.withInert l hi vi ci) = eventAsks v := by
  have hend : ∃ l' hi' vi' ci', endVideo (rebase (v.withInert l hi vi ci)) =
      (endVideo (rebase v)).withInert l' hi' vi' ci' := by
    rw [endVideo_eq rfl, endVideo_eq rfl]
    exact ⟨_, _, _, _, rfl⟩
  obtain ⟨l', hi', vi', ci', hend⟩ := hend
  simp only [eventOutputs, eventAsks, hend]
  exact ⟨rfl, rfl⟩

/-- ADVANCE on states that differ only in these. -/
theorem advanceState_withInert (c : Word) (s : State) (l hi vi ci : Word) :
    ∃ l' hi' vi' ci', advanceState c (s.withInert l hi vi ci).begin =
      (advanceState c s.begin).withInert l' hi' vi' ci' := by
  by_cases hd : EventDue c s
  · have hd' : EventDue c (s.withInert l hi vi ci) := hd
    obtain ⟨houts, hasks⟩ := event_parts_withInert s.video l hi vi ci s.pacingAnswer s.renderer
    obtain ⟨l', hi', vi', ci', hdone⟩ := eventDone_withInert s l hi vi ci
    refine ⟨l', hi', vi', ci', ?_⟩
    rw [advanceState_eq_moved hd, advanceState_eq_moved hd']
    change State.moved { s.begin with video := s.video.withInert l hi vi ci }
      (eventDone (s.video.withInert l hi vi ci))
      (eventOutputs s.pacingAnswer s.renderer (s.video.withInert l hi vi ci))
      (eventAsks (s.video.withInert l hi vi ci)) = _
    rw [houts, hasks, hdone, State.with_video_moved]
    rfl
  · have hd' : ¬ EventDue c (s.withInert l hi vi ci) := hd
    rw [advanceState_of_positive (stillPositive_of_not_due hd),
      advanceState_of_positive (stillPositive_of_not_due hd')]
    exact ⟨_, _, _, _, rfl⟩

/-- A status write on fields that differ only in these. -/
theorem writeStatusVideo_withInert (v : Half) (w : Video) (l hi vi ci : Word) :
    ∃ ci', writeStatusVideo v (w.withInert l hi vi ci) =
      (writeStatusVideo v w).withInert l hi vi ci' := by
  rw [writeStatusVideo_fields, writeStatusVideo_fields]
  exact ⟨_, rfl⟩

theorem passThrough_withInert (a : Addr) (v : Half) (s : State) (l hi vi ci : Word) :
    passThrough a v (s.withInert l hi vi ci) = (passThrough a v s).withInert l hi vi ci := by
  rw [passThrough_eq, passThrough_eq]
  rfl

/-- Settles O38: each transaction on the state with other inert countdowns. -/
theorem inertCountdownsDecideNothing : Obligations.InertCountdownsDecideNothing := by
  unfold Obligations.InertCountdownsDecideNothing
  intro i s t s' hsame h
  obtain ⟨l, hi, vi, ci, rfl⟩ := sameButInert_iff.mp hsame
  suffices hnext : ∃ l' hi' vi' ci', exec i (s.withInert l hi vi ci) =
      .next (s'.withInert l' hi' vi' ci') by
    obtain ⟨l', hi', vi', ci', hnext⟩ := hnext
    exact ⟨_, hnext, rfl, rfl, sameButInert_iff.mpr ⟨l', hi', vi', ci', rfl⟩⟩
  cases i with
  | advance c =>
    obtain ⟨hl, rfl⟩ := exec_advance_eq_next.mp h
    obtain ⟨l', hi', vi', ci', hadv⟩ := advanceState_withInert c s l hi vi ci
    refine ⟨l', hi', vi', ci', exec_advance_eq_next.mpr ⟨hl, ?_⟩⟩
    rw [hadv]
    rfl
  | writeStatus v =>
    obtain ⟨hl, rfl⟩ := exec_writeStatus_eq_next.mp h
    obtain ⟨ci', hw⟩ := writeStatusVideo_withInert v s.video l hi vi ci
    refine ⟨l, hi, vi, ci', exec_writeStatus_eq_next.mpr ⟨hl, ?_⟩⟩
    rw [State.withInert, ← hw]
    rfl
  | readStatus =>
    obtain ⟨hl, rfl⟩ := exec_readStatus_eq_next.mp h
    exact ⟨l, hi, vi, ci, exec_readStatus_eq_next.mpr ⟨hl, rfl⟩⟩
  | writeVideoReg a v =>
    obtain ⟨hl, ha, rfl⟩ := exec_writeVideoReg_eq_next.mp h
    exact ⟨l, hi, vi, ci, exec_writeVideoReg_eq_next.mpr
      ⟨hl, ha, (passThrough_withInert a v s.begin l hi vi ci).symm⟩⟩
  | attachRenderer k =>
    obtain ⟨hl, rfl⟩ := exec_attachRenderer_eq_next.mp h
    exact ⟨l, hi, vi, ci, exec_attachRenderer_eq_next.mpr ⟨hl, rfl⟩⟩
  | powerOn =>
    obtain ⟨hl, rfl⟩ := exec_powerOn_eq_next.mp h
    exact ⟨_, _, _, _, exec_powerOn_eq_next.mpr ⟨hl, rfl⟩⟩
  | teardown =>
    obtain ⟨hl, rfl⟩ := exec_teardown_eq_next.mp h
    exact ⟨l, hi, vi, ci, exec_teardown_eq_next.mpr ⟨hl, rfl⟩⟩

/-! ### The pacing answers (40_timing.md R96, R98, 10_state.md R41) -/

/-- The state with other pacing answers to come. -/
def State.withPacing (s : State) (answers : List Bool) (draws : Nat) : State :=
  { s with pacingAnswers := answers, pacingDraws := draws }

theorem sameButPacing_iff {s t : State} :
    SameButPacing s t ↔ ∃ answers draws, t = s.withPacing answers draws := by
  constructor
  · exact fun h => ⟨_, _, h⟩
  · rintro ⟨answers, draws, rfl⟩
    rfl

/-- The events of a list that no pacing answer decides. -/
def unpaced (evs : List OutputEvent) : List OutputEvent := evs.filter fun ev => !ev.isPaced

theorem unpaced_vblankOutputs (active : Bool) (h : RendererHandle) (enabled : Bool) :
    unpaced (vblankOutputs active h enabled) =
      .paceQuery :: .dmaVblank :: (if enabled then [.irq .vblank] else []) ++ [.paceFramePosted] := by
  cases active <;> cases enabled <;> rfl

/-- Of an End-of-Hblank's outputs, the answer decides the paced ones only. -/
theorem unpaced_endOutputs (active active' : Bool) (h : RendererHandle) (v : Video) :
    unpaced (endOutputs active h v) = unpaced (endOutputs active' h v) := by
  have hdraw : ∀ b : Bool,
      unpaced (.paceQuery :: if b then [.rDrawScanline h v.scanline] else []) = [.paceQuery] := by
    intro b
    cases b <;> rfl
  have happend : ∀ e f, unpaced (e ++ f) = unpaced e ++ unpaced f := List.filter_append
  simp only [endOutputs, happend]
  congr 1
  · congr 1
    split
    · rw [unpaced_vblankOutputs, unpaced_vblankOutputs]
    · rfl
  · split
    · rw [hdraw, hdraw]
    · rfl

theorem unpaced_eventOutputs (active active' : Bool) (h : RendererHandle) (v : Video) :
    unpaced (eventOutputs active h v) = unpaced (eventOutputs active' h v) := by
  unfold eventOutputs
  split
  · exact unpaced_endOutputs active active' h _
  · rfl

/-- A move of a state with other pacing answers to come, up to its outputs. -/
theorem State.moved_withPacing (s : State) (answers : List Bool) (draws : Nat) (v : Video)
    (e f : List OutputEvent) (asked : Bool) :
    ∃ answers' draws', ((s.withPacing answers draws).moved v e asked).begin =
      ((s.moved v f asked).withPacing answers' draws').begin := by
  cases asked
  · exact ⟨answers, draws, rfl⟩
  · simp only [State.moved, State.takePacingAnswer, State.withPacing, if_true]
    cases answers <;> cases s.pacingAnswers <;> exact ⟨_, _, rfl⟩

/-- ADVANCE on states that differ only in the answers to come. -/
theorem advanceState_withPacing (c : Word) (s : State) (answers : List Bool) (draws : Nat) :
    (∃ answers' draws', (advanceState c (s.withPacing answers draws).begin).begin =
      ((advanceState c s.begin).withPacing answers' draws').begin) ∧
    unpaced (advanceState c (s.withPacing answers draws).begin).outputs =
      unpaced (advanceState c s.begin).outputs := by
  by_cases hd : EventDue c s
  · have hd' : EventDue c (s.withPacing answers draws) := hd
    rw [advanceState_eq_moved hd, advanceState_eq_moved hd']
    exact ⟨State.moved_withPacing s.begin answers draws _ _ _ _, unpaced_eventOutputs _ _ _ _⟩
  · have hd' : ¬ EventDue c (s.withPacing answers draws) := hd
    rw [advanceState_of_positive (stillPositive_of_not_due hd),
      advanceState_of_positive (stillPositive_of_not_due hd')]
    exact ⟨⟨answers, draws, rfl⟩, rfl⟩

theorem passThrough_withPacing (a : Addr) (v : Half) (s : State) (answers : List Bool) (draws : Nat) :
    passThrough a v (s.withPacing answers draws) = (passThrough a v s).withPacing answers draws := by
  rw [passThrough_eq, passThrough_eq]
  rfl

/-- A transaction but ADVANCE does not ask: it does the same on a state with other answers to come. -/
theorem exec_withPacing_of_not_advance {i : Instr} {s s' : State} (h : exec i s = .next s')
    (hi : ∀ c, i ≠ .advance c) (answers : List Bool) (draws : Nat) :
    exec i (s.withPacing answers draws) = .next (s'.withPacing answers draws) := by
  cases i with
  | advance c => exact absurd rfl (hi c)
  | writeStatus v =>
    obtain ⟨hl, rfl⟩ := exec_writeStatus_eq_next.mp h
    exact exec_writeStatus_eq_next.mpr ⟨hl, rfl⟩
  | readStatus =>
    obtain ⟨hl, rfl⟩ := exec_readStatus_eq_next.mp h
    exact exec_readStatus_eq_next.mpr ⟨hl, rfl⟩
  | writeVideoReg a v =>
    obtain ⟨hl, ha, rfl⟩ := exec_writeVideoReg_eq_next.mp h
    exact exec_writeVideoReg_eq_next.mpr
      ⟨hl, ha, (passThrough_withPacing a v s.begin answers draws).symm⟩
  | attachRenderer k =>
    obtain ⟨hl, rfl⟩ := exec_attachRenderer_eq_next.mp h
    exact exec_attachRenderer_eq_next.mpr ⟨hl, rfl⟩
  | powerOn =>
    obtain ⟨hl, rfl⟩ := exec_powerOn_eq_next.mp h
    exact exec_powerOn_eq_next.mpr ⟨hl, rfl⟩
  | teardown =>
    obtain ⟨hl, rfl⟩ := exec_teardown_eq_next.mp h
    exact exec_teardown_eq_next.mpr ⟨hl, rfl⟩

/-- Settles O39: only ADVANCE asks, and an answer decides paced events only. -/
theorem pacingChangesNoTiming : Obligations.PacingChangesNoTiming := by
  unfold Obligations.PacingChangesNoTiming
  intro i s t s' hsame h
  obtain ⟨answers, draws, rfl⟩ := sameButPacing_iff.mp hsame
  by_cases hi : ∃ c, i = .advance c
  · obtain ⟨c, rfl⟩ := hi
    obtain ⟨hl, rfl⟩ := exec_advance_eq_next.mp h
    obtain ⟨⟨answers', draws', hbegin⟩, houts⟩ := advanceState_withPacing c s answers draws
    refine ⟨_, exec_advance_eq_next.mpr ⟨hl, rfl⟩, ?_, houts,
      sameButPacing_iff.mpr ⟨answers', draws', hbegin⟩⟩
    simp only [State.answer_result, advanceState_video, State.begin_video]
    rfl
  · have hi : ∀ c, i ≠ .advance c := fun c hc => hi ⟨c, hc⟩
    exact ⟨_, exec_withPacing_of_not_advance h hi answers draws, rfl, rfl,
      sameButPacing_iff.mpr ⟨answers, draws, rfl⟩⟩

end Sys2Proof.Machine
end

section
/-! SUPPORT. Runs of ADVANCE within the budget, as single cycles: where the machine stands at a time, what
it has emitted by then, and the countdown CI (40_timing.md section 5, 70_reset_and_hazards.md). -/

namespace Sys2Proof.Machine

/-! ### One cycle at a time -/

/-- One elapsed cycle. -/
def tick (s : State) : State := advanceState 1#32 s.begin

/-- The output events of the next `n` cycles, in order. -/
def eventsIn : Nat → State → List OutputEvent
  | 0, _     => []
  | n + 1, s => eventsIn n s ++ (tick^[n + 1] s).outputs

theorem eventsIn_add (m n : Nat) (s : State) :
    eventsIn (m + n) s = eventsIn m s ++ eventsIn n (tick^[m] s) := by
  induction n with
  | zero => simp [eventsIn]
  | succ n ih =>
    rw [← Nat.add_assoc, eventsIn, ih, eventsIn, List.append_assoc, ← Function.iterate_add_apply,
      show n + 1 + m = m + n + 1 by omega]

/-- The last transaction's outputs and result take no part in what the next cycles do. -/
theorem begin_iterate_tick (n : Nat) (s : State) : (tick^[n] s.begin).begin = (tick^[n] s).begin := by
  cases n with
  | zero => rfl
  | succ n => rfl

theorem eventsIn_begin (n : Nat) (s : State) : eventsIn n s.begin = eventsIn n s := by
  induction n with
  | zero => rfl
  | succ n ih => rw [eventsIn, eventsIn, ih]; rfl

/-- Elapsed cycles add up: the first part is subtracted from E, then the second. -/
theorem advanceState_add (c d : Word) (s : State) :
    advanceState (c + d) s = advanceState d (spend c s) := by
  have hspend : spend (c + d) s = spend d (spend c s) := by
    simp only [spend, BitVec.sub_sub]
  simp only [advanceState, hspend]

theorem spend_zero (s : State) : spend 0#32 s = s := by simp only [spend, BitVec.sub_zero]

/-- Cycles short of the event only lower E. -/
theorem ticks_short {s : State} {k : Nat} (hk : (k : Int) < s.video.cyclesToNextEvent.toInt) :
    (tick^[k] s).begin = spend (BitVec.ofNat 32 k) s.begin ∧ eventsIn k s = [] := by
  have hmax := Word.toInt_lt s.video.cyclesToNextEvent
  induction k with
  | zero => exact ⟨(spend_zero s.begin).symm, rfl⟩
  | succ k ih =>
    obtain ⟨hstate, hevents⟩ := ih (by omega)
    have hsum : BitVec.ofNat 32 k + 1#32 = BitVec.ofNat 32 (k + 1) := (BitVec.ofNat_add k 1).symm
    have hone : advanceState (BitVec.ofNat 32 (k + 1)) s.begin = tick^[k + 1] s := by
      rw [← hsum, advanceState_add, ← hstate, Function.iterate_succ_apply']
      rfl
    have hpos : stillPositive (s.begin.video.cyclesToNextEvent - BitVec.ofNat 32 (k + 1)) = true := by
      have hk32 : (BitVec.ofNat 32 (k + 1)).toInt = (k + 1 : Nat) := by
        rw [Word.toInt_of_lt (by rw [BitVec.toNat_ofNat]; omega), BitVec.toNat_ofNat]; omega
      rw [stillPositive_eq, State.begin_video, Word.toInt_sub (by omega) (by omega)]
      exact decide_eq_true (by omega)
    rw [← hone, advanceState_of_positive hpos, eventsIn, ← hone, advanceState_of_positive hpos, hevents]
    exact ⟨rfl, rfl⟩

/-- An ADVANCE within the budget is that many single cycles (40_timing.md section 5). -/
theorem advanceState_eq_ticks {s : State} {c : Word} (hpos : 0 < s.video.cyclesToNextEvent.toInt)
    (hc : (c.toNat : Int) ≤ s.video.cyclesToNextEvent.toInt) :
    (advanceState c s.begin).begin = (tick^[c.toNat] s).begin ∧
      (advanceState c s.begin).outputs = eventsIn c.toNat s := by
  cases hk : c.toNat with
  | zero =>
    have hc0 : c = 0#32 := BitVec.eq_of_toNat_eq hk
    have hp : stillPositive (s.begin.video.cyclesToNextEvent - c) = true := by
      rw [stillPositive_eq, State.begin_video, hc0, BitVec.sub_zero]
      exact decide_eq_true hpos
    rw [advanceState_of_positive hp, hc0, spend_zero]
    exact ⟨rfl, rfl⟩
  | succ k =>
    obtain ⟨hstate, hevents⟩ := ticks_short (s := s) (k := k) (by omega)
    have hsum : c = BitVec.ofNat 32 k + 1#32 := by
      rw [← BitVec.ofNat_add, ← hk, BitVec.ofNat_toNat, BitVec.setWidth_eq]
    have hone : advanceState c s.begin = tick^[k + 1] s := by
      rw [hsum, advanceState_add, ← hstate, Function.iterate_succ_apply']
      rfl
    rw [hone, eventsIn, hevents]
    exact ⟨rfl, rfl⟩

/-! ### Runs (70_reset_and_hazards.md R214) -/

theorem exec_advance_live {c : Word} {s t : State} (h : exec (.advance c) s = .next t) :
    t.live = true := by
  obtain ⟨hl, rfl⟩ := exec_advance_eq_next.mp h
  simpa using hl

/-- An ADVANCE within the budget has a legal operand. -/
theorem toNat_lt_of_le_budget {v : Video} {c : Word}
    (hc : (c.toNat : Int) ≤ v.cyclesToNextEvent.toInt) : c.toNat < 2 ^ 31 := by
  have := Word.toInt_lt v.cyclesToNextEvent
  omega

/-- A run of ADVANCE within the budget is its elapsed cycles, one at a time. -/
theorem runAdvances_eq_ticks {cs : List Word} {s : State} (hl : s.live = true) (hs : s.video.Settled)
    (hw : WithinBudget cs s) :
    ∃ t, runAdvances cs s = some (t, eventsIn (elapsed cs) s) ∧
      t.begin = (tick^[elapsed cs] s).begin := by
  induction cs generalizing s with
  | nil => exact ⟨s, rfl, rfl⟩
  | cons c cs ih =>
    obtain ⟨hc, hrest⟩ := hw
    obtain ⟨t, ht, hvideo⟩ := exec_advance_of_live hl c
    have hts : t.video.Settled := hvideo ▸ hs.advance (toNat_lt_of_le_budget hc)
    obtain ⟨u, hu, hend⟩ := ih (exec_advance_live ht) hts (hrest t ht)
    obtain ⟨hbegin, houts⟩ : t.begin = (tick^[c.toNat] s).begin ∧ t.outputs = eventsIn c.toNat s := by
      obtain ⟨-, rfl⟩ := exec_advance_eq_next.mp ht
      have hpos : 0 < s.video.cyclesToNextEvent.toInt := by have := hs.budgetRange; omega
      exact advanceState_eq_ticks hpos hc
    have helapsed : elapsed (c :: cs) = c.toNat + elapsed cs := rfl
    refine ⟨u, ?_, ?_⟩
    · refine run_cons_eq_some.mpr ⟨t, _, ht, hu, ?_⟩
      rw [helapsed, eventsIn_add, houts, ← eventsIn_begin _ t, hbegin, eventsIn_begin]
    · rw [hend, ← begin_iterate_tick, hbegin, begin_iterate_tick, helapsed,
        Nat.add_comm c.toNat, Function.iterate_add_apply]

/-- Settles O41: both runs are the same number of single cycles. -/
theorem noDriftUnderFineStepping : Obligations.NoDriftUnderFineStepping := by
  unfold Obligations.NoDriftUnderFineStepping
  intro s cs ds hinv hl hcs hds heq
  obtain ⟨t, ht, htend⟩ := runAdvances_eq_ticks hl (hinv.settled hl) hcs
  obtain ⟨u, hu, huend⟩ := runAdvances_eq_ticks hl (hinv.settled hl) hds
  exact ⟨t, u, _, ht, heq ▸ hu, by rw [htend, huend, heq]⟩

/-! ### Where the machine stands at a time (40_timing.md section 5) -/

/-- The fields of a settled state `n` cycles after a POWER_ON, in any frame: 1232 cycles a line, the
first line being -1. -/
structure Video.At (n : Nat) (v : Video) : Prop where
  settled : v.Settled
  line    : v.scanline.toInt = if n < 1232 then (-1 : Int) else ((n / 1232 - 1) % 228 : Nat)
  phase   : v.inHblank = decide (1006 ≤ n % 1232)
  budget  : v.cyclesToNextEvent.toInt = (if n % 1232 < 1006 then (1006 : Int) else 1232) - (n % 1232 : Nat)

/-- A time at which settled fields stand. -/
def Video.time (v : Video) : Nat :=
  ((v.scanline.toInt + 1) * 1232 + (if v.inHblank then 1232 else 1006) - v.cyclesToNextEvent.toInt).toNat

theorem Video.Settled.at_time {v : Video} (hs : v.Settled) : v.At v.time := by
  obtain ⟨hlower, hupper⟩ := hs.lineRange
  obtain ⟨hmin, hmax⟩ := hs.budgetRange
  unfold Video.time
  cases hb : v.inHblank
  · simp only [hb, Bool.false_eq_true, if_false] at hmax ⊢
    refine ⟨hs, ?_, ?_, ?_⟩
    · split <;> omega
    · rw [hb, eq_comm, decide_eq_false_iff_not]; omega
    · split <;> omega
  · simp only [hb, if_true] at hmax ⊢
    refine ⟨hs, ?_, ?_, ?_⟩
    · split <;> omega
    · rw [hb, eq_comm, decide_eq_true_iff]; omega
    · split <;> omega

theorem reset_at_zero : Video.reset.At 0 := ⟨Video.reset_settled, rfl, rfl, rfl⟩

/-- The cycle that ends a phase, and only that one, performs an event. -/
theorem Video.At.due_iff {s : State} {n : Nat} (h : s.video.At n) :
    EventDue 1#32 s ↔ (n + 1) % 1232 = 1006 ∨ (n + 1) % 1232 = 0 := by
  have hb := h.budget
  obtain ⟨hmin, hmax⟩ := h.settled.budgetRange
  have hone : (1#32 : Word).toInt = 1 := rfl
  unfold EventDue
  rw [Word.toInt_sub (by rw [hone]; omega) (by rw [hone]; omega), hone]
  split at hb <;> omega

theorem Video.At.inHblank_iff {v : Video} {n : Nat} (h : v.At n) :
    v.inHblank = true ↔ 1006 ≤ n % 1232 := by
  rw [h.phase, decide_eq_true_iff]

/-- The event of Hdraw falls on cycle 1006 of its line. -/
theorem Video.At.start_of_due {s : State} {n : Nat} (h : s.video.At n) (hd : EventDue 1#32 s)
    (hb : s.video.inHblank = false) : (n + 1) % 1232 = 1006 := by
  have hphase : ¬ 1006 ≤ n % 1232 := by rw [← h.inHblank_iff, hb]; decide
  have hn := h.due_iff.mp hd
  omega

/-- The event of Hblank falls on the end of its line. -/
theorem Video.At.end_of_due {s : State} {n : Nat} (h : s.video.At n) (hd : EventDue 1#32 s)
    (hb : s.video.inHblank = true) : (n + 1) % 1232 = 0 := by
  have hphase := h.inHblank_iff.mp hb
  have hn := h.due_iff.mp hd
  omega

/-- A cycle later the machine stands a cycle further. -/
theorem Video.At.tick {s : State} {n : Nat} (h : s.video.At n) : (tick s).video.At (n + 1) := by
  have hvideo : (Machine.tick s).video = advanceVideo 1#32 s.video := advanceState_video _ _
  rw [hvideo]
  have hsettled := h.settled.advance (c := 1#32) (by decide)
  have hline := h.line
  have hbudget := h.budget
  by_cases hd : EventDue 1#32 s
  · cases hb : s.video.inHblank
    · have hn := h.start_of_due hd hb
      refine ⟨hsettled, ?_, ?_, ?_⟩ <;> rw [h.settled.start hb hd]
      · dsimp only
        rw [hline]
        split <;> split <;> omega
      · rw [eq_comm, decide_eq_true_iff]; omega
      · have h226 : (226#32 : Word).toInt = 226 := rfl
        dsimp only
        rw [h226]
        split <;> omega
    · have hn := h.end_of_due hd hb
      refine ⟨hsettled, ?_, ?_, ?_⟩ <;> rw [h.settled.finish hb hd]
      · rw [h.settled.settledEnd_scanline_toInt, hline]
        split <;> split <;> omega
      · change false = _
        rw [eq_comm, decide_eq_false_iff_not]; omega
      · have h1006 : (settledEnd s.video).cyclesToNextEvent.toInt = 1006 := rfl
        rw [h1006]
        split <;> omega
  · have hn := h.due_iff.not.mp hd
    have hone : (1#32 : Word).toInt = 1 := rfl
    have hrange := h.settled.budgetRange
    refine ⟨hsettled, ?_, ?_, ?_⟩ <;> rw [advanceVideo_of_not_due hd]
    · dsimp only
      rw [hline]
      split <;> split <;> omega
    · dsimp only
      rw [h.phase, decide_eq_decide]
      omega
    · dsimp only
      rw [Word.toInt_sub (by rw [hone]; omega) (by rw [hone]; omega), hone]
      split at hbudget <;> split <;> omega

/-- The target and the enables, which no cycle touches. -/
def Video.controls (v : Video) : BitVec 8 × Bool × Bool × Bool :=
  (v.vcountTarget, v.vblankIRQEnabled, v.hblankIRQEnabled, v.vcounterIRQEnabled)

theorem tick_controls (s : State) : (tick s).video.controls = s.video.controls := by
  have hvideo : (tick s).video = advanceVideo 1#32 s.video := advanceState_video _ _
  obtain ⟨htarget, hve, hhe, hce⟩ := advanceVideo_controls 1#32 s.video
  rw [hvideo, Video.controls, htarget, hve, hhe, hce]
  rfl

/-- After `k` cycles the machine stands `k` cycles further, with the same target and enables. -/
theorem Video.At.ticks {s : State} {n : Nat} (h : s.video.At n) (k : Nat) :
    (Machine.tick^[k] s).video.At (n + k) ∧ (Machine.tick^[k] s).video.controls = s.video.controls := by
  induction k with
  | zero => exact ⟨h, rfl⟩
  | succ k ih =>
    rw [Function.iterate_succ_apply']
    exact ⟨ih.1.tick, (tick_controls _).trans ih.2⟩

/-- A run within the budget from a time ends its elapsed cycles later. -/
theorem Video.At.run {s : State} {n : Nat} (h : s.video.At n) (hl : s.live = true) {cs : List Word}
    (hw : WithinBudget cs s) :
    ∃ t, runAdvances cs s = some (t, eventsIn (elapsed cs) s) ∧ t.video.At (n + elapsed cs) ∧
      t.video = (Machine.tick^[elapsed cs] s).video := by
  obtain ⟨t, ht, hend⟩ := runAdvances_eq_ticks hl h.settled hw
  have hvideo : t.video = (Machine.tick^[elapsed cs] s).video := by
    simpa using congrArg State.video hend
  exact ⟨t, ht, hvideo ▸ (h.ticks _).1, hvideo⟩

/-- Settles O42: the reset fields stand at time 0. -/
theorem positionAfterElapsedCycles : Obligations.PositionAfterElapsedCycles := by
  unfold Obligations.PositionAfterElapsedCycles
  intro s cs hl hreset hw
  have h0 : s.video.At 0 := hreset ▸ reset_at_zero
  obtain ⟨t, ht, hat, -⟩ := h0.run hl hw
  rw [Nat.zero_add] at hat
  exact ⟨t, _, ht, hat.line, hat.phase, hat.budget⟩

end Sys2Proof.Machine
end

section
/-! SUPPORT. A frame of ADVANCE calls: the lines entered, how often each event occurs, and the countdown CI
(40_timing.md section 5, 60_exceptions.md section 2, 41_status.md section 3). -/

namespace Sys2Proof.Machine

/-! ### The lines entered (40_timing.md R95, R96) -/

/-- One ADVANCE within the budget from a time: it ends that many cycles later. -/
theorem Video.At.advance {s t : State} {n : Nat} {c : Word} (h : s.video.At n) (hl : s.live = true)
    (hc : (c.toNat : Int) ≤ s.video.cyclesToNextEvent.toInt) (ht : exec (.advance c) s = .next t) :
    t.video.At (n + c.toNat) := by
  have hw : WithinBudget [c] s := ⟨hc, fun _ _ => trivial⟩
  obtain ⟨u, hu, hat, -⟩ := h.run hl hw
  obtain ⟨t', _, ht', hrest, -⟩ := run_cons_eq_some.mp hu
  cases ht.symm.trans ht'
  cases hrest
  exact hat

/-- The line that stands in a settled state `q` lines after the pre-roll line. -/
theorem Video.At.scanline_eq {v : Video} {n : Nat} (h : v.At n) (hn : 1232 ≤ n) :
    v.scanline = BitVec.ofNat 32 ((n / 1232 - 1) % 228) := by
  have hsmall : (BitVec.ofNat 32 ((n / 1232 - 1) % 228)).toInt = ((n / 1232 - 1) % 228 : Nat) := by
    rw [Word.toInt_of_lt (by rw [BitVec.toNat_ofNat]; omega), BitVec.toNat_ofNat]; omega
  exact Word.ext_toInt (by rw [h.line, if_neg (by omega), hsmall])

/-- A run enters a line at every multiple of 1232 it reaches, that is, the lines of the times it crosses. -/
theorem linesEntered_eq {cs : List Word} {s : State} {n : Nat} (h : s.video.At n) (hl : s.live = true)
    (hw : WithinBudget cs s) :
    linesEntered cs s = (List.range' (n / 1232) ((n + elapsed cs) / 1232 - n / 1232)).map
      fun q => BitVec.ofNat 32 (q % 228) := by
  induction cs generalizing s n with
  | nil => simp [linesEntered, elapsed]
  | cons c cs ih =>
    obtain ⟨hc, hrest⟩ := hw
    obtain ⟨t, ht, -⟩ := exec_advance_of_live hl c
    have hat := h.advance hl hc ht
    have htail := ih hat (exec_advance_live ht) (hrest t ht)
    have helapsed : elapsed (c :: cs) = c.toNat + elapsed cs := rfl
    have hbudget := h.budget
    rw [linesEntered, ht, helapsed, ← Nat.add_assoc]
    dsimp only
    by_cases henter : n / 1232 < (n + c.toNat) / 1232
    · have hflip : (s.video.inHblank && !t.video.inHblank) = true := by
        rw [h.phase, hat.phase, Bool.and_eq_true, Bool.not_eq_true', decide_eq_true_iff,
          decide_eq_false_iff_not]
        split at hbudget <;> omega
      have hnext : (n + c.toNat) / 1232 = n / 1232 + 1 := by split at hbudget <;> omega
      have hcount : (n + c.toNat + elapsed cs) / 1232 - n / 1232 =
          (n + c.toNat + elapsed cs) / 1232 - (n / 1232 + 1) + 1 := by omega
      rw [if_pos hflip, htail, hat.scanline_eq (by omega), hnext, hcount, List.range'_succ,
        List.map_cons, Nat.add_sub_cancel]
    · have hsame : (n + c.toNat) / 1232 = n / 1232 := by omega
      have hflip : ¬ (s.video.inHblank && !t.video.inHblank) = true := by
        rw [h.phase, hat.phase, Bool.and_eq_true, Bool.not_eq_true', decide_eq_true_iff,
          decide_eq_false_iff_not]
        omega
      rw [if_neg hflip, htail, hsame]

/-- Settles O43: a frame from the start of line `s` crosses 228 line starts. -/
theorem frameVisitsEveryLineOnce : Obligations.FrameVisitsEveryLineOnce := by
  unfold Obligations.FrameVisitsEveryLineOnce
  intro s cs hinv hl hb hbudget hline hw helapsed
  have hat := (hinv.settled hl).at_time
  have hnat := Word.toNat_of_nonneg hline
  have htime : s.video.time = (s.video.scanline.toNat + 1) * 1232 := by
    have h1006 : (1006#32 : Word).toInt = 1006 := rfl
    rw [Video.time, hb, hbudget, h1006, if_neg (by decide)]
    omega
  rw [htime] at hat
  obtain ⟨t, ht, htat, -⟩ := hat.run hl hw
  rw [helapsed] at htat
  refine ⟨?_, t, _, ht, ?_, ?_, ?_⟩
  · have hfirst : (s.video.scanline.toNat + 1) * 1232 / 1232 = s.video.scanline.toNat + 1 := by omega
    have hcount : ((s.video.scanline.toNat + 1) * 1232 + 280896) / 1232 - (s.video.scanline.toNat + 1) =
        228 := by omega
    rw [linesEntered_eq hat hl hw, helapsed, hfirst, hcount, List.range'_eq_map_range, List.map_map]
    rfl
  · rw [htat.phase, decide_eq_false_iff_not]; omega
  · have h1006 : (1006#32 : Word).toInt = 1006 := rfl
    refine Word.ext_toInt ?_
    rw [htat.budget, h1006]
    split <;> omega
  · refine Word.ext_toInt ?_
    rw [htat.line, hat.line]
    split <;> split <;> omega

/-! ### How often an event occurs -/

/-- No event is listed twice in the outputs of one ADVANCE. -/
theorem advanceState_outputs_nodup (c : Word) (s : State) : (advanceState c s.begin).outputs.Nodup := by
  by_cases hd : EventDue c s
  · rw [advanceState_outputs_due hd]
    have hvis : nextLine s = 160#32 → ¬ (nextLine s).toInt < 160 := fun h => by rw [h]; decide
    split
    · split <;> split <;> simp
    · by_cases h160 : nextLine s = 160#32
      · rw [if_pos h160, if_neg (hvis h160)]
        cases s.pacingAnswer <;> cases s.video.vblankIRQEnabled <;> split <;> simp [vblankOutputs]
      · rw [if_neg h160]
        cases s.pacingAnswer <;> split <;> split <;> simp
  · rw [advanceState_outputs_of_positive (stillPositive_of_not_due hd)]
    exact List.nodup_nil

/-- What the next cycle emits, by the time it ends at. -/
theorem Video.At.mem_tick_outputs {s : State} {n : Nat} (h : s.video.At n) {ev : OutputEvent} :
    ev ∈ (Machine.tick s).outputs ↔
      ((n + 1) % 1232 = 1006 ∧
        ((s.video.scanline.toInt < 160 ∧ ev = .dmaHblank) ∨
          (s.video.hblankIRQEnabled = true ∧ ev = .irq .hblank))) ∨
      ((n + 1) % 1232 = 0 ∧
        ((nextLine s = 160#32 ∧
            ev ∈ vblankOutputs s.pacingAnswer s.renderer s.video.vblankIRQEnabled) ∨
          (nextLine s = s.video.vcountTarget.setWidth 32 ∧ s.video.vcounterIRQEnabled = true ∧
            ev = .irq .vcounter) ∨
          ((nextLine s).toInt < 160 ∧
            (ev = .paceQuery ∨
              (s.pacingAnswer = true ∧ ev = .rDrawScanline s.renderer (nextLine s)))))) := by
  unfold Machine.tick
  by_cases hd : EventDue 1#32 s
  · rw [mem_advanceState_outputs_due hd]
    cases hb : s.video.inHblank
    · simp [h.start_of_due hd hb]
    · simp [h.end_of_due hd hb]
  · obtain ⟨hstart, hend⟩ := not_or.mp (h.due_iff.not.mp hd)
    rw [advanceState_outputs_of_positive (stillPositive_of_not_due hd)]
    simp [hstart, hend]

/-- The line entered by the cycle that ends a line. -/
theorem Video.At.nextLine_toInt {s : State} {n : Nat} (h : s.video.At n) (hn : (n + 1) % 1232 = 0) :
    (nextLine s).toInt = (((n + 1) / 1232 - 1) % 228 : Nat) := by
  obtain ⟨hlower, hupper⟩ := h.settled.lineRange
  have hnext : (nextLine s).toInt = _ := Machine.nextLine_toInt hlower hupper
  rw [hnext, h.line]
  split <;> split <;> omega

/-- The events of a row of cycles, counted: if every cycle raises the total `total` of a time by what it
emits, so does the row. -/
theorem Video.At.count_eventsIn {s : State} {n : Nat} (h : s.video.At n) (ev : OutputEvent)
    {total : Nat → Nat}
    (htotal : ∀ m u, n ≤ m → u.video.At m → u.video.controls = s.video.controls →
      total (m + 1) = total m + if ev ∈ (Machine.tick u).outputs then 1 else 0) (k : Nat) :
    total (n + k) = total n + (eventsIn k s).count ev := by
  induction k with
  | zero => simp [eventsIn]
  | succ k ih =>
    obtain ⟨hat, hcontrols⟩ := h.ticks k
    have hstep := htotal (n + k) _ (by omega) hat hcontrols
    have hnodup : (Machine.tick (Machine.tick^[k] s)).outputs.Nodup := advanceState_outputs_nodup 1#32 _
    rw [← Nat.add_assoc, hstep, ih, eventsIn, List.count_append, Function.iterate_succ_apply',
      hnodup.count, Nat.add_assoc]

/-- How many times in `0, ..., n` a line start of line `l` has been reached. -/
def entries (l n : Nat) : Nat := (n + 280896 - (l + 1) * 1232) / 280896

/-- The line entered is `l` at its line starts, once a frame. -/
theorem Video.At.entries_succ {s : State} {n : Nat} (h : s.video.At n) {l : Nat} (hl : l < 228) :
    entries l (n + 1) =
      entries l n + if (n + 1) % 1232 = 0 ∧ (nextLine s).toInt = l then 1 else 0 := by
  have hiff : ((n + 1) % 1232 = 0 ∧ (nextLine s).toInt = l) ↔
      (n + 1) % 280896 = (l + 1) * 1232 % 280896 := by
    constructor
    · rintro ⟨hn, hline⟩
      rw [h.nextLine_toInt hn] at hline
      omega
    · intro hn
      have hend : (n + 1) % 1232 = 0 := by omega
      refine ⟨hend, ?_⟩
      rw [h.nextLine_toInt hend]
      omega
  simp only [hiff, entries]
  split <;> omega

theorem entries_frame {l : Nat} (hl : l < 228) (n : Nat) {k : Nat} (hk : k = 280896) :
    entries l (n + k) - entries l n = 1 := by
  unfold entries
  omega

theorem nextLine_eq_160_iff (s : State) : nextLine s = 160#32 ↔ (nextLine s).toInt = (160 : Nat) :=
  Word.eq_ofInt_iff

theorem nextLine_eq_target_iff (s : State) (target : BitVec 8) :
    nextLine s = target.setWidth 32 ↔ (nextLine s).toInt = target.toNat := by
  rw [Word.eq_ofInt_iff, target_toInt]

/-- The same for an event under a fixed gate, its total a function of the time alone. -/
theorem Video.At.count_of_gate {s : State} {n : Nat} (h : s.video.At n) {ev : OutputEvent}
    {gate : Prop} [Decidable gate] {total : Nat → Nat}
    (hstep : ∀ m u, n ≤ m → u.video.At m → u.video.controls = s.video.controls →
      ∃ p : Prop, ∃ _ : Decidable p, (ev ∈ (Machine.tick u).outputs ↔ gate ∧ p) ∧
        total (m + 1) = total m + if p then 1 else 0) (k : Nat) :
    (eventsIn k s).count ev = if gate then total (n + k) - total n else 0 := by
  have hcount := h.count_eventsIn ev (total := fun m => if gate then total m else 0)
    (fun m u hm hat hcontrols => by
      obtain ⟨p, _, hmem, htotal⟩ := hstep m u hm hat hcontrols
      simp only [hmem]
      by_cases hg : gate
      · simpa only [hg, true_and, if_true] using htotal
      · simp [hg]) k
  by_cases hg : gate
  · simp only [hg, if_true] at hcount ⊢
    omega
  · simp only [hg, if_false] at hcount ⊢
    omega

/-- An event that a cycle emits exactly when it enters line `l`, under a fixed gate, is emitted as often
as that line is entered. -/
theorem Video.At.count_of_entry {s : State} {n : Nat} (h : s.video.At n) {ev : OutputEvent}
    {gate : Prop} [Decidable gate] {l : Nat} (hl : l < 228)
    (hmem : ∀ m u, u.video.At m → u.video.controls = s.video.controls →
      (ev ∈ (Machine.tick u).outputs ↔ gate ∧ (m + 1) % 1232 = 0 ∧ (nextLine u).toInt = l)) (k : Nat) :
    (eventsIn k s).count ev = if gate then entries l (n + k) - entries l n else 0 :=
  h.count_of_gate (fun m u _ hat hcontrols =>
    ⟨_, inferInstance, hmem m u hat hcontrols, hat.entries_succ hl⟩) k

/-- The controls of a state reached by single cycles, one by one. -/
theorem controls_eq_iff {v w : Video} :
    v.controls = w.controls ↔ v.vcountTarget = w.vcountTarget ∧
      v.vblankIRQEnabled = w.vblankIRQEnabled ∧ v.hblankIRQEnabled = w.hblankIRQEnabled ∧
      v.vcounterIRQEnabled = w.vcounterIRQEnabled := by
  simp [Video.controls]

/-- The Vblank DMA trigger, the posted frame and the Vblank interrupt, once per entry into line 160. -/
theorem Video.At.count_vblank {s : State} {n : Nat} (h : s.video.At n) (k : Nat) :
    (eventsIn k s).count .dmaVblank = entries 160 (n + k) - entries 160 n ∧
      (eventsIn k s).count .paceFramePosted = entries 160 (n + k) - entries 160 n ∧
      (eventsIn k s).count (.irq .vblank) =
        if s.video.vblankIRQEnabled = true then entries 160 (n + k) - entries 160 n else 0 := by
  refine ⟨?_, ?_, h.count_of_entry (by decide) (fun m u hat hcontrols => ?_) k⟩
  · rw [h.count_of_entry (gate := True) (l := 160) (by decide) (fun m u hat _ => by
      simp [hat.mem_tick_outputs, mem_vblankOutputs, nextLine_eq_160_iff]) k, if_pos trivial]
  · rw [h.count_of_entry (gate := True) (l := 160) (by decide) (fun m u hat _ => by
      simp [hat.mem_tick_outputs, mem_vblankOutputs, nextLine_eq_160_iff]) k, if_pos trivial]
  · obtain ⟨-, hve, -, -⟩ := controls_eq_iff.mp hcontrols
    rw [hat.mem_tick_outputs]
    simp only [mem_vblankOutputs, nextLine_eq_160_iff, hve, reduceCtorEq, and_false, or_false, false_or]
    tauto

/-- A cycle raises the vcounter interrupt when it enters the target line with the enable set. -/
theorem Video.At.vcounter_mem_tick_iff {u : State} {m : Nat} (hat : u.video.At m) {v : Video}
    (hcontrols : u.video.controls = v.controls) :
    .irq .vcounter ∈ (Machine.tick u).outputs ↔
      v.vcounterIRQEnabled = true ∧ (m + 1) % 1232 = 0 ∧ (nextLine u).toInt = v.vcountTarget.toNat := by
  obtain ⟨htarget, -, -, hce⟩ := controls_eq_iff.mp hcontrols
  rw [hat.mem_tick_outputs]
  simp only [mem_vblankOutputs, nextLine_eq_target_iff, htarget, hce, reduceCtorEq, and_false, or_false,
    false_or, and_true]
  tauto

/-- The vcounter interrupt, once per entry into the target line, if that is a line at all. -/
theorem Video.At.count_vcounter {s : State} {n : Nat} (h : s.video.At n) (k : Nat) :
    (eventsIn k s).count (.irq .vcounter) =
      if s.video.vcounterIRQEnabled = true ∧ s.video.vcountTarget.toNat < 228 then
        entries s.video.vcountTarget.toNat (n + k) - entries s.video.vcountTarget.toNat n
      else 0 := by
  by_cases ht : s.video.vcountTarget.toNat < 228
  · rw [h.count_of_entry ht (fun m u hat hcontrols => hat.vcounter_mem_tick_iff hcontrols) k]
    simp [ht]
  · rw [if_neg fun hg => ht hg.2]
    refine h.count_of_entry (gate := False) (l := 0) (by decide) (fun m u hat hcontrols => ?_) k
    obtain ⟨-, hupper⟩ := hat.settled.nextLine_range
    rw [hat.vcounter_mem_tick_iff hcontrols]
    exact ⟨fun ⟨_, _, heq⟩ => by omega, fun hf => hf.1.elim⟩

/-- The Hblank interrupt, once per start of Hblank. -/
theorem Video.At.count_hblank {s : State} {n : Nat} (h : s.video.At n) (k : Nat) :
    (eventsIn k s).count (.irq .hblank) =
      if s.video.hblankIRQEnabled = true then (n + k + 226) / 1232 - (n + 226) / 1232 else 0 := by
  refine h.count_of_gate (total := fun m => (m + 226) / 1232) (fun m u _ hat hcontrols => ?_) k
  obtain ⟨-, -, hhe, -⟩ := controls_eq_iff.mp hcontrols
  refine ⟨(m + 1) % 1232 = 1006, inferInstance, ?_, by split <;> omega⟩
  simp [hat.mem_tick_outputs, mem_vblankOutputs, hhe, and_comm]

/-- Starts of Hblank on the visible lines of the frames after the pre-roll line, up to a time. -/
def visibleStarts (n : Nat) : Nat :=
  160 * ((n - 1232) / 280896) + min 160 (((n - 1232) % 280896 + 226) / 1232)

/-- The Hblank DMA trigger, once per start of Hblank on a visible line. -/
theorem Video.At.count_dmaHblank {s : State} {n : Nat} (h : s.video.At n) (hn : 1232 ≤ n) (k : Nat) :
    (eventsIn k s).count .dmaHblank = visibleStarts (n + k) - visibleStarts n := by
  have hcount := h.count_eventsIn .dmaHblank (total := visibleStarts)
    (fun m u hm hat _ => by
      have hline := hat.line
      rw [if_neg (by omega)] at hline
      have hmem : .dmaHblank ∈ (Machine.tick u).outputs ↔
          (m + 1) % 1232 = 1006 ∧ (m / 1232 - 1) % 228 < 160 := by
        rw [hat.mem_tick_outputs]
        simp only [mem_vblankOutputs, reduceCtorEq, and_false, or_false, and_true]
        omega
      simp only [hmem, visibleStarts]
      split <;> omega) k
  omega

/-- Entries into lines 0 to 160 in the frames after the pre-roll line, up to a time. -/
def pacedEntries (n : Nat) : Nat :=
  161 * ((n - 1232) / 280896) + min 161 ((n - 1232) % 280896 / 1232 + 1)

/-- The pacing query, once per entry into a visible line and once into line 160. -/
theorem Video.At.count_paceQuery {s : State} {n : Nat} (h : s.video.At n) (hn : 1232 ≤ n) (k : Nat) :
    (eventsIn k s).count .paceQuery = pacedEntries (n + k) - pacedEntries n := by
  have hcount := h.count_eventsIn .paceQuery (total := pacedEntries)
    (fun m u hm hat _ => by
      have hmem : .paceQuery ∈ (Machine.tick u).outputs ↔
          (m + 1) % 1232 = 0 ∧ ((m + 1) / 1232 - 1) % 228 ≤ 160 := by
        simp only [hat.mem_tick_outputs, mem_vblankOutputs, nextLine_eq_160_iff]
        simp only [reduceCtorEq, and_false, or_false, false_or, and_true]
        exact and_congr_right fun hend => by rw [hat.nextLine_toInt hend]; omega
      simp only [hmem, pacedEntries]
      split <;> omega) k
  omega

/-- Settles O44: the totals of a time, a frame apart. -/
theorem frameEventCounts : Obligations.FrameEventCounts := by
  unfold Obligations.FrameEventCounts
  intro s cs hinv hl hline hw helapsed
  have hat := (hinv.settled hl).at_time
  have hn : 1232 ≤ s.video.time := by
    obtain ⟨hmin, hmax⟩ := (hinv.settled hl).budgetRange
    unfold Video.time
    split at hmax <;> split <;> omega
  obtain ⟨t, ht, -, -⟩ := hat.run hl hw
  obtain ⟨hdma, hposted, hvblank⟩ := hat.count_vblank (elapsed cs)
  refine ⟨t, _, ht, ?_, ?_, ?_, ?_, ?_, ?_, ?_⟩
  · rw [hdma, entries_frame (by decide) _ helapsed]
  · rw [hposted, entries_frame (by decide) _ helapsed]
  · rw [hat.count_dmaHblank hn]; unfold visibleStarts; omega
  · rw [hat.count_paceQuery hn]; unfold pacedEntries; omega
  · rw [hvblank, entries_frame (by decide) _ helapsed]
  · rw [hat.count_hblank]; split <;> omega
  · rw [hat.count_vcounter]
    split
    · next hg => exact entries_frame hg.2 _ helapsed
    · rfl

/-! ### The countdown CI (40_timing.md R91, R97, 41_status.md section 3) -/

/-- What the rebases of the first `n` cycles have subtracted: 1006 at each start of Hblank, 226 at each
end. -/
def rebased (n : Nat) : Nat := 1006 * ((n + 226) / 1232) + 226 * (n / 1232)

/-- CI over one cycle: lowered by the rebase, raised by a frame under a vcounter interrupt. -/
theorem Video.At.tick_ci {s : State} {n : Nat} (h : s.video.At n) :
    (Machine.tick s).video.cyclesToNextVcounterIRQ + BitVec.ofNat 32 (rebased (n + 1)) =
      s.video.cyclesToNextVcounterIRQ + BitVec.ofNat 32 (rebased n) +
        if .irq .vcounter ∈ (Machine.tick s).outputs then 280896#32 else 0#32 := by
  have hvideo : (Machine.tick s).video = advanceVideo 1#32 s.video := advanceState_video _ _
  have hmem := h.vcounter_mem_tick_iff (rfl : s.video.controls = s.video.controls)
  rw [hvideo]
  by_cases hd : EventDue 1#32 s
  · cases hb : s.video.inHblank
    · have hstart := h.start_of_due hd hb
      have hrebased : rebased (n + 1) = rebased n + 1006 := by unfold rebased; omega
      rw [if_neg (by rw [hmem]; omega), h.settled.start hb hd, hrebased, BitVec.ofNat_add]
      bv_omega
    · have hend := h.end_of_due hd hb
      have hrebased : rebased (n + 1) = rebased n + 226 := by unfold rebased; omega
      have hhit : (matchesTarget (nextLine s) s.video.vcountTarget && s.video.vcounterIRQEnabled) = true ↔
          .irq .vcounter ∈ (Machine.tick s).outputs := by
        rw [hmem, ← nextLine_eq_target_iff]
        simp [matchesTarget, zext32, hend, and_comm]
      have hci : (settledEnd s.video).cyclesToNextVcounterIRQ =
          if .irq .vcounter ∈ (Machine.tick s).outputs then
            s.video.cyclesToNextVcounterIRQ - 226#32 + 280896#32
          else s.video.cyclesToNextVcounterIRQ - 226#32 := by
        simp only [← hhit]
        rfl
      rw [h.settled.finish hb hd, hci, hrebased, BitVec.ofNat_add]
      split <;> bv_omega
  · obtain ⟨hstart, hend⟩ := not_or.mp (h.due_iff.not.mp hd)
    have hrebased : rebased (n + 1) = rebased n := by unfold rebased; omega
    rw [if_neg (by rw [hmem]; omega), advanceVideo_of_not_due hd, hrebased, BitVec.add_zero]

/-- CI over a row of cycles. -/
theorem Video.At.ticks_ci {s : State} {n : Nat} (h : s.video.At n) (k : Nat) :
    (Machine.tick^[k] s).video.cyclesToNextVcounterIRQ + BitVec.ofNat 32 (rebased (n + k)) =
      s.video.cyclesToNextVcounterIRQ +
        BitVec.ofNat 32 (rebased n + 280896 * (eventsIn k s).count (.irq .vcounter)) := by
  induction k with
  | zero => simp [eventsIn]
  | succ k ih =>
    have hstep := (h.ticks k).1.tick_ci
    have hnodup : (Machine.tick (Machine.tick^[k] s)).outputs.Nodup := advanceState_outputs_nodup 1#32 _
    rw [eventsIn, List.count_append, Function.iterate_succ_apply', hnodup.count, ← Nat.add_assoc, hstep,
      ih]
    split
    · rw [Nat.mul_add, ← Nat.add_assoc, BitVec.ofNat_add (rebased n + _), BitVec.add_assoc]
    · rw [Nat.add_zero, BitVec.add_zero]

/-- Settles O45: without a vcounter interrupt, the rebases of a frame are all that changes CI. -/
theorem vcounterCountdownDeclines : Obligations.VcounterCountdownDeclines := by
  unfold Obligations.VcounterCountdownDeclines
  intro s cs hinv hl hgate hw helapsed
  have hat := (hinv.settled hl).at_time
  obtain ⟨t, ht, -, hvideo⟩ := hat.run hl hw
  have hnone : (eventsIn (elapsed cs) s).count (.irq .vcounter) = 0 := by
    rw [hat.count_vcounter, if_neg]
    rintro ⟨hce, htarget⟩
    obtain hclear | hhigh := hgate
    · simp [hce] at hclear
    · omega
  have hci := hat.ticks_ci (elapsed cs)
  have hrebased : rebased (s.video.time + elapsed cs) = rebased s.video.time + 280896 := by
    unfold rebased; omega
  rw [hnone, hrebased, BitVec.ofNat_add, Nat.mul_zero, Nat.add_zero, ← hvideo] at hci
  exact ⟨t, _, ht, by bv_omega, List.count_eq_zero.mp hnone⟩

/-- Settles O46: the write makes CI six scanline periods, the target line is entered after five, and CI
is then lowered by those and raised by a frame. -/
theorem vcounterFiresFiveLinesOn : Obligations.VcounterFiresFiveLinesOn := by
  unfold Obligations.VcounterFiresFiveLinesOn
  intro s v hinv hl hb hbudget hline h5 htarget
  have hs := hinv.settled hl
  obtain ⟨t, ht, -, -⟩ := exec_writeStatus_of_live hl v
  have hvideo := exec_writeStatus_video ht
  have htl : t.live = true := by obtain ⟨-, rfl⟩ := exec_writeStatus_eq_next.mp ht; exact hl
  have hci : t.video.cyclesToNextVcounterIRQ = 7392#32 := by
    have h7392 : (7392#32 : Word).toInt = 7392 := rfl
    refine Word.ext_toInt ?_
    rw [hvideo, hs.writeStatus_ci_toInt h5, hb, h7392]
    simp only [Bool.false_eq_true, if_false]
    rw [if_neg (by omega)]
    omega
  have hat : t.video.At t.video.time := Video.Settled.at_time (hvideo ▸ hs.writeStatus v)
  have htime : (t.video.time : Int) = (s.video.scanline.toInt + 1) * 1232 := by
    have h1006 : (1006#32 : Word).toInt = 1006 := rfl
    obtain ⟨hlower, -⟩ := hs.lineRange
    rw [hvideo, writeStatusVideo_eq]
    simp only [Video.time, hb, hbudget, h1006, Bool.false_eq_true, if_false]
    omega
  have hce : t.video.vcounterIRQEnabled = true := by rw [hvideo, writeStatusVideo_eq]; exact h5
  have hline5 : (t.video.vcountTarget.toNat : Int) = s.video.scanline.toInt + 5 := by
    rw [hvideo, writeStatusVideo_eq, ← htarget, ← statusTarget_toInt, target_toInt]
  have hcount : ∀ k ≤ 6160, (eventsIn k t).count (.irq .vcounter) = if k = 6160 then 1 else 0 := by
    intro k hk
    rw [hat.count_vcounter, if_pos ⟨hce, by omega⟩]
    unfold entries
    split <;> omega
  refine ⟨t, ht, hci, fun cs hw hle => ?_⟩
  obtain ⟨u, hu, huat, huvideo⟩ := hat.run htl hw
  refine ⟨u, _, hu, fun hlt => ?_, fun heq => ⟨?_, ?_, ?_⟩⟩
  · exact List.count_eq_zero.mp ((hcount _ hle).trans (if_neg (by omega)))
  · exact List.count_pos_iff.mp (by rw [hcount _ hle, if_pos heq]; decide)
  · rw [huat.line, heq]
    split <;> omega
  · have huci := hat.ticks_ci (elapsed cs)
    have hrebased : rebased (t.video.time + elapsed cs) = rebased t.video.time + 6160 := by
      unfold rebased; omega
    rw [hcount _ hle, if_pos heq, hci, hrebased, BitVec.ofNat_add, BitVec.ofNat_add, ← huvideo] at huci
    bv_omega

end Sys2Proof.Machine
end
